-- ==== Sys2Proof/Word.lean ====
section
/-! DEFINITION. The two word types of the block (00_scope.md R5, R6): a byte and a nibble. Bit 0 is the
least significant bit. Nothing else of the block is a machine word: positions, offsets, delays and counts are
unbounded numbers (92_eei_decisions.md D38). -/

namespace Sys2Proof

/-- A byte is 8 bits (R5). -/
abbrev Byte := BitVec 8

/-- A nibble is 4 bits (R5, R9). -/
abbrev Nibble := BitVec 4

end Sys2Proof
end

