-- ==== Sys2Proof/Syntax.lean ====
section
/-! DEFINITION. The syntax of everything the block is asked to do: the operand enumerations, the twelve logical
instructions of spec/opcode_table.json (R70, R81 to R93), the Command (R27, R60), the wire word (R62), and the
host's operations above the encoder (R71). -/

namespace Sys2Proof

/-- Register select of a Command (R27): the command register `IR` or the data register `DR` (R40). -/
inductive RegSel where
  | command
  | data
  deriving DecidableEq, Repr

/-- Read/write operation of a Command (R27). -/
inductive ReadWrite where
  | write
  | read
  deriving DecidableEq, Repr

/-- `data_width` and the operand `width` of Function set (R11, R70). -/
inductive DataWidth where
  | bit4
  | bit8
  deriving DecidableEq, Repr

/-- `line_mode` and the operand `line` of Function set (R12, R70). -/
inductive LineMode where
  | oneLine
  | twoLine
  deriving DecidableEq, Repr

/-- `font` and the operand `font` of Function set (R13, R70). -/
inductive Font where
  | font5x8
  | font5x11
  deriving DecidableEq, Repr

/-- The two values `On` and `Off` (R14, R15, R16, R22). -/
inductive Switch where
  | on
  | off
  deriving DecidableEq, Repr

/-- The two directions (R17). -/
inductive Direction where
  | leftToRight
  | rightToLeft
  deriving DecidableEq, Repr

/-- The two shift types (R18). -/
inductive ShiftType where
  | cursorOnly
  | cursorAndDisplay
  deriving DecidableEq, Repr

/-- The two RAMs behind the data register (R21, R40). -/
inductive RamType where
  | ddram
  | cgram
  deriving DecidableEq, Repr

/-- The twelve logical instructions, one constructor per row of spec/opcode_table.json (R70, R93). The two
address operands are unsigned integers of any size: the encoder checks them (R88, R89). -/
inductive Instr where
  /-- R81. -/
  | clearDisplay
  /-- R82. -/
  | returnHome
  /-- R83. -/
  | entryModeSet (dir : Direction) (shift : ShiftType)
  /-- R84. -/
  | displayOnOff (display cursor blink : Switch)
  /-- R85. -/
  | cursorOrDisplayShift (shift : ShiftType) (dir : Direction)
  /-- R86. -/
  | halfFunctionSet
  /-- R87. -/
  | functionSet (width : DataWidth) (line : LineMode) (font : Font)
  /-- R88. -/
  | setCGRAM (addr : Nat)
  /-- R89. -/
  | setDDRAM (addr : Nat)
  /-- R90. -/
  | readBusyFlagAndAddress
  /-- R91. -/
  | writeDataToRAM (byte : Byte)
  /-- R92. -/
  | readDataFromRAM
  deriving DecidableEq, Repr

/-- The payload of a Command (R27): none, four bits or eight bits. -/
inductive Payload where
  | none
  | bit4 (n : Nibble)
  | bit8 (b : Byte)
  deriving DecidableEq, Repr

/-- The Command value (R27): register select, read/write, payload. It is built per call and not stored. -/
structure Command where
  rs : RegSel
  rw : ReadWrite
  data : Payload
  deriving DecidableEq, Repr

/-- The wire word (R62): `RS RW DB7..DB0` for an 8-bit payload or a read, `RS RW DB7..DB4` for a 4-bit payload.
Bit 0 is the last one written. -/
inductive WireWord where
  | wide (bits : BitVec 10)
  | short (bits : BitVec 6)
  deriving DecidableEq, Repr

/-- A position `(col, row)` (R19): two unsigned integers without a word width (D38). -/
structure Pos where
  col : Nat
  row : Nat
  deriving DecidableEq, Repr

/-- The fields of the shadow a host may read, with the two derived constants (R148). -/
inductive Field where
  | dataWidth
  | lineMode
  | font
  | displayOn
  | cursorOn
  | cursorBlink
  | direction
  | shiftType
  | cursorPos
  | displayOffset
  | ramType
  | backlight
  | lineCapacity
  | rowCount
  deriving DecidableEq, Repr

/-- The four strategies of a window shift (R178). -/
inductive Strategy where
  | forceLeft
  | forceRight
  | noBoundaryCross
  | shortest
  deriving DecidableEq, Repr

/-- The operations a host may request above the encoder (R71): the transport's (41_transport.md), the display
state's (42_display_state.md), the façade's (43_facade.md) and the macro layer's (44_animation.md). Durations and
counts are unbounded numbers; a duration is in microseconds (R170, D14, D15). -/
inductive Op where
  /-- The encoder called directly (R80, R193). -/
  | encode (i : Instr)
  /-- R100: a raw Command, hand made or encoded. -/
  | send (c : Command)
  /-- R116. -/
  | delayThenSend (c : Command) (t : Nat)
  /-- R117. -/
  | waitUntilIdleThenSend (c : Command)
  /-- R118. -/
  | isBusy
  /-- R119. -/
  | getBacklight
  /-- R120. -/
  | setBacklight (v : Switch)
  /-- R148. -/
  | get (f : Field)
  /-- R137. -/
  | calculatePosByOffset (pos : Pos) (dx dy : Int)
  /-- R138. -/
  | setCursorPos (pos : Pos)
  /-- R139. -/
  | setCgramAddr (a : Nat)
  /-- R140. -/
  | shiftCursorOrDisplay (shift : ShiftType) (dir : Direction)
  /-- R141. -/
  | setLineMode (m : LineMode)
  /-- R142. -/
  | setFont (f : Font)
  /-- R143. -/
  | setDisplayOn (v : Switch)
  /-- R144. -/
  | setDirection (d : Direction)
  /-- R145. -/
  | setCursorOn (v : Switch)
  /-- R146. -/
  | setCursorBlink (v : Switch)
  /-- R147. -/
  | setShiftType (t : ShiftType)
  /-- R151 to R153. -/
  | init
  /-- R155. -/
  | clearDisplay
  /-- R156. -/
  | returnHome
  /-- R154. -/
  | writeU8ToCur (b : Byte)
  /-- R159. -/
  | readU8FromCur
  /-- R157. -/
  | writeCharToCur (ch : Char)
  /-- R158. -/
  | writeGraphToCgram (index : Nat) (rows : Vector Byte 8)
  /-- R160. -/
  | readByteFromPos (pos : Pos)
  /-- R161. -/
  | writeByteToPos (pos : Pos) (b : Byte)
  /-- R171. -/
  | typewriter (text : List Char) (d : Nat)
  /-- R174. -/
  | splitFlapSequential (text : List Char) (maxFlipCount : Option Nat) (perFlip : Nat) (perChar : Option Nat)
  /-- R176. -/
  | splitFlapSimultaneous (text : List Char) (maxFlipCount : Option Nat) (perFlip : Nat)
  /-- R180. -/
  | shiftDisplayToPos (target : Nat) (strategy : Strategy) (displayDuring : Switch) (perStep : Nat)
  /-- R183. -/
  | fullDisplayBlink (count interval : Nat)
  deriving DecidableEq, Repr

end Sys2Proof
end

