-- ==== Sys2Proof/WellFormed.lean ====
section
/-! DEFINITION. Well-formedness of instructions (the operand ranges of R70) and of Commands (the four shapes of
R61). -/

namespace Sys2Proof

/-- An instruction is well formed when its operands are in the ranges of R70: `addr < 64` for Set CGRAM address,
`addr < 128` for Set DDRAM address; every other operand's type holds its range. -/
def Instr.wellFormed : Instr → Bool
  | .clearDisplay => true
  | .returnHome => true
  | .entryModeSet _ _ => true
  | .displayOnOff _ _ _ => true
  | .cursorOrDisplayShift _ _ => true
  | .halfFunctionSet => true
  | .functionSet _ _ _ => true
  | .setCGRAM addr => decide (addr < 64)
  | .setDDRAM addr => decide (addr < 128)
  | .readBusyFlagAndAddress => true
  | .writeDataToRAM _ => true
  | .readDataFromRAM => true

/-- A Command is well formed when it has one of the four shapes of R61: malformed are a write with no payload, a
read with one, and a 4-bit payload for the data register. -/
def Command.wellFormed (c : Command) : Bool :=
  match c.rw, c.data, c.rs with
  | .write, .none, _ => false
  | .write, .bit8 _, _ => true
  | .write, .bit4 _, .command => true
  | .write, .bit4 _, .data => false
  | .read, .none, _ => true
  | .read, .bit4 _, _ => false
  | .read, .bit8 _, _ => false

end Sys2Proof
end

