-- ==== Sys2Proof/Decode.lean ====
section
/-! DEFINITION. Wire words: the decoder, total on any word and refusing by name, and after it the encoder, written
from the patterns of 30_encoding.md R63, R64 and spec/opcode_table.json. The block itself holds no decoder (R66): the
decoder says which logical instruction a request's wire word names (log entry 3). -/

namespace Sys2Proof

/-! ## Field values (R64) -/

/-- D of Entry mode set and of Cursor/display shift: left-to-right is 1 (R64). -/
def Direction.bit : Direction → BitVec 1
  | .leftToRight => 1#1
  | .rightToLeft => 0#1

/-- S of Entry mode set and of Cursor/display shift: cursor and display is 1 (R64). -/
def ShiftType.bit : ShiftType → BitVec 1
  | .cursorAndDisplay => 1#1
  | .cursorOnly => 0#1

/-- D, C and B of Display on/off: On is 1 (R64, D18). -/
def Switch.bit : Switch → BitVec 1
  | .on => 1#1
  | .off => 0#1

/-- W of Function set: 8-bit is 1 (R64). -/
def DataWidth.bit : DataWidth → BitVec 1
  | .bit8 => 1#1
  | .bit4 => 0#1

/-- L of Function set: two-line is 1 (R64). -/
def LineMode.bit : LineMode → BitVec 1
  | .twoLine => 1#1
  | .oneLine => 0#1

/-- F of Function set: 5x11 is 1 (R64). -/
def Font.bit : Font → BitVec 1
  | .font5x11 => 1#1
  | .font5x8 => 0#1

/-- The direction a D bit names (R64). -/
def Direction.ofBit (b : Bool) : Direction := if b then .leftToRight else .rightToLeft

/-- The shift type an S bit names (R64). -/
def ShiftType.ofBit (b : Bool) : ShiftType := if b then .cursorAndDisplay else .cursorOnly

/-- The switch value a D, C or B bit of Display on/off names (R64). -/
def Switch.ofBit (b : Bool) : Switch := if b then .on else .off

/-- The width a W bit names (R64). -/
def DataWidth.ofBit (b : Bool) : DataWidth := if b then .bit8 else .bit4

/-- The line mode an L bit names (R64). -/
def LineMode.ofBit (b : Bool) : LineMode := if b then .twoLine else .oneLine

/-- The font an F bit names (R64). -/
def Font.ofBit (b : Bool) : Font := if b then .font5x11 else .font5x8

/-- RS is 0 for the command register and 1 for the data register (R62, D3). -/
def RegSel.bit : RegSel → BitVec 1
  | .command => 0#1
  | .data => 1#1

/-- RW is 0 for a write and 1 for a read (R62, D3). -/
def ReadWrite.bit : ReadWrite → BitVec 1
  | .write => 0#1
  | .read => 1#1

/-- The register an RS bit selects (R62). -/
def RegSel.ofBit (b : Bool) : RegSel := if b then .data else .command

/-- The operation an RW bit selects (R62). -/
def ReadWrite.ofBit (b : Bool) : ReadWrite := if b then .read else .write

/-! ## The decoder -/

/-- Why a wire word is no logical instruction (R67). Such a word is still a Command that raw `send` delivers. -/
inductive DecodeError where
  /-- The instruction byte `0000_0000`, which matches no format. -/
  | zeroByte
  /-- The instruction byte `0000_0011`, which no format writes. -/
  | homeLowBit
  /-- Bits 1 and 0 of Cursor/display shift are not 0. -/
  | shiftLowBits
  /-- Bits 1 and 0 of Function set are not 0. -/
  | functionSetLowBits
  /-- A 6-bit word that is not the half function set's `0 0 0010`. -/
  | notHalfFunctionSet
  /-- A table word with a bit set above its width. -/
  | wordTooWide
  deriving DecidableEq, Repr

/-- An instruction byte (`RS = 0`, `RW = 0`) is identified by its most significant 1 bit (R63, R66). -/
def decodeInstructionByte (b : Byte) : Except DecodeError Instr :=
  if b.getLsbD 7 then .ok (.setDDRAM (b.extractLsb' 0 7).toNat)
  else if b.getLsbD 6 then .ok (.setCGRAM (b.extractLsb' 0 6).toNat)
  else if b.getLsbD 5 then
    if b.extractLsb' 0 2 = 0#2 then
      .ok (.functionSet (.ofBit (b.getLsbD 4)) (.ofBit (b.getLsbD 3)) (.ofBit (b.getLsbD 2)))
    else .error .functionSetLowBits
  else if b.getLsbD 4 then
    if b.extractLsb' 0 2 = 0#2 then
      .ok (.cursorOrDisplayShift (.ofBit (b.getLsbD 3)) (.ofBit (b.getLsbD 2)))
    else .error .shiftLowBits
  else if b.getLsbD 3 then
    .ok (.displayOnOff (.ofBit (b.getLsbD 2)) (.ofBit (b.getLsbD 1)) (.ofBit (b.getLsbD 0)))
  else if b.getLsbD 2 then .ok (.entryModeSet (.ofBit (b.getLsbD 1)) (.ofBit (b.getLsbD 0)))
  else if b.getLsbD 1 then
    if b.getLsbD 0 then .error .homeLowBit else .ok .returnHome
  else if b.getLsbD 0 then .ok .clearDisplay
  else .error .zeroByte

/-- The logical instruction a wire word names (R62, R66): `RS` and `RW` choose among the instruction writes, the
two reads (whose `DB` bits are inputs and are ignored) and the data write. -/
def decode : WireWord → Except DecodeError Instr
  | .wide w =>
    match w.getLsbD 9, w.getLsbD 8 with
    | false, false => decodeInstructionByte (w.extractLsb' 0 8)
    | false, true => .ok .readBusyFlagAndAddress
    | true, false => .ok (.writeDataToRAM (w.extractLsb' 0 8))
    | true, true => .ok .readDataFromRAM
  | .short w => if w = 0b000010#6 then .ok .halfFunctionSet else .error .notHalfFunctionSet

/-- The Command a wire word stands for, whether or not it names an instruction (R62): the payload of a 10-bit write
is its byte, a 10-bit read has none, a 6-bit word carries its nibble. -/
def WireWord.command : WireWord → Command
  | .wide w =>
    { rs := .ofBit (w.getLsbD 9), rw := .ofBit (w.getLsbD 8),
      data := if w.getLsbD 8 then .none else .bit8 (w.extractLsb' 0 8) }
  | .short w =>
    { rs := .ofBit (w.getLsbD 5), rw := .ofBit (w.getLsbD 4), data := .bit4 (w.extractLsb' 0 4) }

/-- A word as spec/opcode_table.json numbers it: rows of at most 8 bits are the 6-bit wire word, longer rows the
10-bit one; bit 0 of the row is bit 0 of the word. -/
def WireWord.ofTable (nbits w : Nat) : WireWord :=
  if nbits ≤ 8 then .short (BitVec.ofNat 6 w) else .wide (BitVec.ofNat 10 w)

/-- Whether a table word has no bit above its wire word. -/
def tableWordFits (nbits w : Nat) : Bool :=
  if nbits ≤ 8 then decide (w < 64) else decide (w < 1024)

/-- The decoder on a table word, refusing a word with bits above its width. -/
def decodeTable (nbits w : Nat) : Except DecodeError Instr :=
  if tableWordFits nbits w then decode (WireWord.ofTable nbits w) else .error .wordTooWide

/-- The decoder in the form the host asks: none where it refuses. -/
def decodeTableWord (nbits w : Nat) : Option Instr := (decodeTable nbits w).toOption

/-! ## The encoder of words -/

/-- The wire word of an instruction (the `encoding` column of spec/opcode_table.json): fixed bits and fields,
highest first; the input bits of the two reads are written 0. An address field holds the low bits of its operand. -/
def encode : Instr → WireWord
  | .clearDisplay => .wide 0b0000000001#10
  | .returnHome => .wide 0b0000000010#10
  | .entryModeSet dir shift => .wide (0b00000001#8 ++ dir.bit ++ shift.bit)
  | .displayOnOff display cursor blink => .wide (0b0000001#7 ++ display.bit ++ cursor.bit ++ blink.bit)
  | .cursorOrDisplayShift shift dir => .wide (0b000001#6 ++ shift.bit ++ dir.bit ++ 0b00#2)
  | .halfFunctionSet => .short 0b000010#6
  | .functionSet width line font => .wide (0b00001#5 ++ width.bit ++ line.bit ++ font.bit ++ 0b00#2)
  | .setCGRAM addr => .wide (0b0001#4 ++ BitVec.ofNat 6 addr)
  | .setDDRAM addr => .wide (0b001#3 ++ BitVec.ofNat 7 addr)
  | .readBusyFlagAndAddress => .wide 0b0100000000#10
  | .writeDataToRAM byte => .wide (0b10#2 ++ byte)
  | .readDataFromRAM => .wide 0b1100000000#10

end Sys2Proof
end

