-- ==== Sys2Proof/Config.lean ====
section
/-! DEFINITION. What is fixed when the block is constructed (00_scope.md R4, 10_state.md R35) and the free values of
its environment (20_memory.md R57). -/

namespace Sys2Proof

/-- `TRANSPORT` (R4). -/
inductive Transport where
  | parallelFourBit
  | parallelEightBit
  | i2cBridge
  deriving DecidableEq, Repr

/-- `LATCH` (R68): the bit positions of the bridge's latch byte, and in `inverted` a 1 for every bit of the byte
whose polarity is the opposite of R68's table (log entry 9). -/
structure Latch where
  rsBit : Nat
  rwBit : Nat
  enBit : Nat
  blBit : Nat
  dataLsb : Nat
  inverted : Byte
  deriving DecidableEq, Repr

/-- `CONFIG` (R4): the ten fields of the construction-time configuration. -/
structure Configuration where
  dataWidth : DataWidth
  lineMode : LineMode
  font : Font
  displayOn : Switch
  cursorOn : Switch
  cursorBlink : Switch
  direction : Direction
  shiftType : ShiftType
  pollInterval : Nat
  backlight : Switch
  deriving DecidableEq, Repr

/-- `P_OFFSET_STEP_LTR` (R4, D29): +1 or -1. -/
inductive OffsetStep where
  | plusOne
  | minusOne
  deriving DecidableEq, Repr

/-- The parameters of R4. None of them changes after construction. -/
structure Params where
  transport : Transport
  pinCnt : Nat
  hasBacklight : Bool
  i2cAddr : Nat
  latch : Latch
  config : Configuration
  clearSetsLtr : Bool
  offsetStepLtr : OffsetStep
  deriving DecidableEq, Repr

/-- The default layout of R68: RS bit 0, RW bit 1, enable bit 2, backlight bit 3, data bits 4 to 7, no bit
inverted. PRESUMED by the spec itself (D8, G3). -/
def Latch.default : Latch :=
  { rsBit := 0, rwBit := 1, enBit := 2, blBit := 3, dataLsb := 4, inverted := 0 }

/-- The parameters of the model's reset state: those of the spec's own program P1 (95_test_vectors.md), with `LATCH`,
`P_CLEAR_SETS_LTR` and `P_OFFSET_STEP_LTR` at their defaults in R4 and `I2C_ADDR`, unused by this transport, 0.
DESIGN CHOICE, unsafe (log entry 1): R4 and R34 leave every one of them an argument. -/
def Params.reset : Params :=
  { transport := .parallelFourBit
    pinCnt := 4
    hasBacklight := false
    i2cAddr := 0
    latch := Latch.default
    config :=
      { dataWidth := .bit4, lineMode := .twoLine, font := .font5x8, displayOn := .on, cursorOn := .off
        cursorBlink := .off, direction := .leftToRight, shiftType := .cursorOnly, pollInterval := 100
        backlight := .off }
    clearSetsLtr := false
    offsetStepLtr := .plusOne }

/-- The level an input line answers when the state lists no answer for it, by the number of answers drawn so far:
true is High. A free value: "A model treats each as a free draw" (R57, U11; log entry 2). -/
opaque Config.freeLevel : Nat → Bool

/-- The byte the bridge answers when the state lists no answer, by the number of answers drawn so far. A free value
(R57, U11; log entry 2). -/
opaque Config.freeByte : Nat → Byte

end Sys2Proof
end

