-- ==== Sys2Proof/Machine/State.lean ====
section
/-! DEFINITION. The state of the block (10_state.md): the DisplayState `S`, the transport state `X`, the fatal latch
and the sequencer position, with the block's parameters, its pending requests, the environment's answers and the trace
of its interface events. Plain data throughout. The block has no memory of its own (20_memory.md, R35). -/

namespace Sys2Proof.Machine

/-! ## Interfaces -/

/-- A logic level (R6, R33). -/
inductive Level where
  | low
  | high
  deriving DecidableEq, Repr

/-- A line of a parallel transport (R25). The data lines are `DL[0]` to `DL[PIN_CNT-1]`. -/
inductive Line where
  | rs
  | rw
  | en
  | bl
  | dl (j : Fin 8)
  deriving DecidableEq, Repr

/-- What the block last drove on a line (R25). -/
inductive Drive where
  | undriven
  | driven (v : Level)
  deriving DecidableEq, Repr

/-- An interface event as the block asks for it (R7, R33). -/
inductive Call where
  | pinSet (l : Line) (v : Level)
  | pinGet (l : Line)
  | i2cWrite (addr : Nat) (bytes : List Byte)
  | i2cWriteRead (addr : Nat) (bytes : List Byte) (n : Nat)
  | delayUs (n : Nat)
  | delayMs (n : Nat)
  deriving DecidableEq, Repr

/-- What the environment answers to an event that succeeds (R33, R57). -/
inductive Answer where
  | done
  | level (v : Level)
  | bytes (bs : List Byte)
  deriving DecidableEq, Repr

/-- An event that has happened: the call and its answer. -/
structure Event where
  call : Call
  answer : Answer
  deriving DecidableEq, Repr

/-- The inputs the environment has ready (R35, R57): the levels and bytes it will answer, oldest first; which event
it will fail, `some k` failing the event after the next `k` and `none` failing no event (a failure is fatal, so one
number says all of them, log entry 2); and how many answers it has given, the counter the free values of Config are
applied to. -/
structure Env where
  levels : List Level
  bytes : List Byte
  failIn : Option Nat
  draws : Nat
  deriving DecidableEq, Repr

/-! ## Fatal errors -/

/-- The offending offset that `OffsetOutOfRange` records (R195). -/
inductive OffsetInfo where
  | delta (dx dy : Int)
  | target (t : Nat)
  deriving DecidableEq, Repr

/-- The sixteen fatal errors (R192 to R207), each with what it records. -/
inductive FatalError where
  | cgramAddrOutOfRange (addr : Nat)
  | ddramAddrOutOfRange (addr : Nat)
  | posOutOfRange (pos : Pos)
  | offsetOutOfRange (info : OffsetInfo)
  | invalidFontLine
  | wrongRamSpace
  | cgramIndexOutOfRange (index : Nat)
  | graphRowOutOfRange (k : Nat) (value : Byte)
  | missingPerCharDelay
  | nonPrintableInSplitFlap (ch : Char)
  | i2cEightBitRequest
  | unsupportedPinCount (n : Nat)
  | i2cFirstCommandNotBootstrap
  | ioFault (event : Call)
  | malformedCommand
  | widthTransportMismatch
  deriving DecidableEq, Repr

/-! ## The sequencer -/

/-- How the byte of a read is assembled from the sampled lines: two nibbles, high first (R106, R113), eight lines at
once (R107), or no byte, for a write (R100). -/
inductive ReadBack where
  | none
  | nibbles
  | byte
  deriving DecidableEq, Repr

/-- One element of the wire sequence of a Command (41_transport.md): an interface event, the setting of
`X.first_command_sent` (R110), or the return of `send` for its Command (R100). The last two emit nothing. -/
inductive Wire where
  | call (c : Call)
  | sentFirst
  | ret (c : Command) (r : ReadBack)
  deriving DecidableEq, Repr

/-- The named steps of the initialisation state machine (R162). `Constructed` and `Ready` are the idle sequencer. -/
inductive InitStage where
  | i1
  | i2
  | i3
  | t1
  | t2
  | t3
  | t4
  deriving DecidableEq, Repr

/-- One action of an operation in progress: an element of a wire sequence, which may be an interface event, or a
silent action that reads and assigns state or expands into further actions. -/
inductive Micro where
  | wire (w : Wire)
  /-- `send(c)` (R100). -/
  | send (c : Command)
  /-- `wait_idle_send(c)` (R117). -/
  | waitIdle (c : Command)
  /-- The test of the poll loop, after a busy-flag read (R117, R118). -/
  | pollTest (c : Command)
  /-- A nested operation: its checks and assignments now, its events after (R130, R191). -/
  | call (o : Op)
  /-- Enters a step of the initialisation (R162). -/
  | stage (st : InitStage)
  /-- Cursor home, window home, DDRAM (R153 step T2). -/
  | home
  /-- The auto-step after a data transfer (R134). -/
  | stepCursor
  /-- `set_backlight(S.backlight)` (R153 step T4). -/
  | pushBacklight
  /-- The flips of one character of the sequential split-flap (R174). -/
  | flips (target : Nat) (maxFlipCount : Option Nat) (perFlip : Nat)
  /-- One toggle of the full-display blink (R183). -/
  | toggle
  /-- The remaining toggles of the full-display blink; none for the endless form (R183). -/
  | blink (left : Option Nat) (interval : Nat)
  /-- Returns the optional byte of the last `send` (R116, R117). -/
  | returnSent
  /-- Returns bit 7 of the byte read (R118). -/
  | returnBusy
  deriving DecidableEq, Repr

/-- The sequencer position `seq` (R29): idle, or an operation in progress with the index of its next event, its
initialisation step if it has one (R162), and the actions it has still to do. -/
inductive Seq where
  | idle
  | running (index : Nat) (stage : Option InitStage) (rest : List Micro)
  deriving DecidableEq, Repr

/-! ## Registers -/

/-- The DisplayState `S` (R11 to R22). -/
structure DisplayState where
  dataWidth : DataWidth
  lineMode : LineMode
  font : Font
  displayOn : Switch
  cursorOn : Switch
  cursorBlink : Switch
  direction : Direction
  shiftType : ShiftType
  cursorPos : Pos
  displayOffset : Nat
  ramType : RamType
  backlight : Switch
  deriving DecidableEq, Repr

/-- `X.level(line)` for every line of a parallel transport (R25). -/
structure Levels where
  rs : Drive
  rw : Drive
  en : Drive
  bl : Drive
  dl : Vector Drive 8
  deriving DecidableEq, Repr

/-- The transport state `X` (R25, R26). -/
structure TransportState where
  level : Levels
  addr : Nat
  firstCommandSent : Bool
  backlight : Switch
  deriving DecidableEq, Repr

/-- What an operation returned to the host (R33, item 5). -/
inductive Result where
  | nothing
  | byte (b : Byte)
  | bool (b : Bool)
  | switch (v : Switch)
  | pos (p : Pos)
  | nat (n : Nat)
  | dataWidth (v : DataWidth)
  | lineMode (v : LineMode)
  | font (v : Font)
  | direction (v : Direction)
  | shiftType (v : ShiftType)
  | ramType (v : RamType)
  | command (c : Command)
  deriving DecidableEq, Repr

/-- What the host presents (R29, R30): a logical instruction by its wire word, delivered to the transport as it
stands, or an operation of R71. -/
inductive Request where
  | word (w : WireWord)
  | op (o : Op)
  deriving DecidableEq, Repr

/-- The state of the block. -/
structure State where
  /-- The parameters of R4, never changed (R35). -/
  params : Params
  /-- The DisplayState (R11 to R22). -/
  S : DisplayState
  /-- `poll_interval`, held beside `S` (R23). -/
  pollInterval : Nat
  /-- The transport state (R25, R26). -/
  X : TransportState
  /-- The fatal latch `halted` with the diagnostic of the error that set it (R28, R191): the block is halted when
  an error is recorded. -/
  fatal : Option FatalError
  /-- The sequencer position (R29). -/
  seq : Seq
  /-- The levels sampled by the read in progress, oldest first (R103, R113). -/
  rx : List Level
  /-- The optional byte the last completed `send` returned (R100). -/
  sent : Option Byte
  /-- The value the last operation returned (R33). -/
  result : Result
  /-- The requests the host has presented and the block has not taken, oldest first (R30). -/
  requests : List Request
  /-- The environment's answers and failures to come (R57). -/
  env : Env
  /-- The interface events that have happened, oldest first (R33). -/
  trace : List Event
  /-- The Commands whose `send` has returned, oldest first: what the transport has been handed and has delivered
  (R100), the trace of 95_test_vectors.md's "sends" columns. The model's own record. -/
  delivered : List Command
  deriving DecidableEq, Repr

/-- `halted` (R28). -/
abbrev State.halted (s : State) : Bool := s.fatal.isSome

/-! ## Outcomes -/

/-- Why a step stops. -/
inductive Fault where
  /-- Raised by `step` and by every meaning in a halted block, with the fatal error that halted it: "While it is
  true the block takes no further operation and emits no event" (R28). Safe: the halted block has no next step. -/
  | halted (cause : FatalError)
  deriving DecidableEq, Repr

/-- Why a step has no meaning. -/
inductive Refusal where
  /-- Raised by an arm of `exec` whose instruction has no meaning yet; no arm does. Safe. -/
  | notModelled (mnemonic : String)
  deriving DecidableEq, Repr

/-! ## Construction -/

/-- No line has been driven (R34). -/
def Levels.undriven : Levels :=
  { rs := .undriven, rw := .undriven, en := .undriven, bl := .undriven, dl := Vector.replicate 8 .undriven }

/-- The values of R34 for given parameters, before the checks of R220. -/
def State.constructed (p : Params) : State :=
  { params := p
    S :=
      { dataWidth := p.config.dataWidth, lineMode := p.config.lineMode, font := p.config.font
        displayOn := p.config.displayOn, cursorOn := p.config.cursorOn, cursorBlink := p.config.cursorBlink
        direction := p.config.direction, shiftType := p.config.shiftType, cursorPos := { col := 0, row := 0 }
        displayOffset := 0, ramType := .ddram, backlight := p.config.backlight }
    pollInterval := p.config.pollInterval
    X := { level := Levels.undriven, addr := p.i2cAddr, firstCommandSent := false, backlight := .off }
    fatal := none
    seq := .idle
    rx := []
    sent := none
    result := .nothing
    requests := []
    env := { levels := [], bytes := [], failIn := none, draws := 0 }
    trace := []
    delivered := [] }

/-- The machine right after reset, which is construction (R34, R220), with the parameters of log entry 1; they pass
both checks of R220. -/
def State.reset : State := State.constructed Params.reset

end Sys2Proof.Machine
end

