-- ==== Sys2Proof/Machine/Operands.lean ====
section
/-! DEFINITION. Operand forms and address arithmetic: nibbles and levels (R47, R102), line capacity and bounds (R5,
R131), the cursor step (R133), positions to DDRAM addresses (R44), glyph slots (R45), characters (R72), relative
offsets (R137), window offsets and window-shift plans (R136, R178), start bytes (R173). Positions and offsets are
unbounded numbers (D38). -/

namespace Sys2Proof.Machine

/-! ## Bytes, nibbles, levels -/

/-- `b[7:4]`, the nibble that crosses a 4-bit bus first (R47). -/
def highNibble (b : Byte) : Nibble := b.extractLsb' 4 4

/-- `b[3:0]` (R47). -/
def lowNibble (b : Byte) : Nibble := b.extractLsb' 0 4

/-- The level that carries a bit: 1 is High (R102). -/
def Level.ofBit (b : Bool) : Level := if b then .high else .low

/-- The bit a sampled level carries: 1 if High (R103). -/
def Level.bit (v : Level) : Bool := match v with
  | .high => true
  | .low => false

/-- The level of `RS` (R101). -/
def rsLevel : RegSel → Level
  | .command => .low
  | .data => .high

/-- The level of `RW` (R101). -/
def rwLevel : ReadWrite → Level
  | .write => .low
  | .read => .high

/-- The level of the backlight line: On is High (R120, D16). -/
def backlightLevel : Switch → Level
  | .on => .high
  | .off => .low

/-- The number whose bit `j` is the level at index `j` (R103): `v[j] = 1` if High. -/
def numberOfLevels : List Level → Nat
  | [] => 0
  | v :: vs => (if v.bit then 1 else 0) + 2 * numberOfLevels vs

/-- The byte of two sampled nibbles, the first the high one (R47, R106, R113). -/
def byteOfNibbles (levels : List Level) : Byte :=
  BitVec.ofNat 4 (numberOfLevels (levels.take 4)) ++ BitVec.ofNat 4 (numberOfLevels ((levels.drop 4).take 4))

/-- The byte of eight lines sampled at once (R107). -/
def byteOfLevels (levels : List Level) : Byte := BitVec.ofNat 8 (numberOfLevels (levels.take 8))

/-- The four levels of a nibble, bit 0 first. -/
def levelsOfNibble (n : Nibble) : List Level :=
  [.ofBit (n.getLsbD 0), .ofBit (n.getLsbD 1), .ofBit (n.getLsbD 2), .ofBit (n.getLsbD 3)]

/-! ## Geometry -/

/-- `line_capacity` (R5): 80 in one-line mode, 40 in two-line mode. -/
def lineCapacity : LineMode → Nat
  | .oneLine => 80
  | .twoLine => 40

/-- `row_count` (R5). -/
def rowCount : LineMode → Nat
  | .oneLine => 1
  | .twoLine => 2

/-- `in_bounds` (R131). -/
def inBounds (m : LineMode) (p : Pos) : Bool := decide (p.col < lineCapacity m) && decide (p.row < rowCount m)

/-- One step of the cursor (R133). -/
def stepPos (m : LineMode) (p : Pos) : Direction → Pos
  | .leftToRight =>
    if p.col < lineCapacity m - 1 then { p with col := p.col + 1 }
    else match m with
      | .twoLine => { col := 0, row := 1 - p.row }
      | .oneLine => { col := 0, row := 0 }
  | .rightToLeft =>
    if p.col > 0 then { p with col := p.col - 1 }
    else match m with
      | .twoLine => { col := lineCapacity m - 1, row := 1 - p.row }
      | .oneLine => { col := lineCapacity m - 1, row := 0 }

/-- `ddram_addr` (R44): the DDRAM address of a position. -/
def ddramAddr (m : LineMode) (p : Pos) : Nat :=
  match m with
  | .oneLine => p.col
  | .twoLine => p.col + 0x40 * p.row

/-- The first CGRAM address of a glyph slot (R45). -/
def slotBase (index : Nat) : Nat := 8 * index

/-- `char_byte` (R72): the byte a character becomes; outside 0x20 to 0x7D it is the solid block 0xFF. -/
def charByte (ch : Char) : Byte :=
  if 0x20 ≤ ch.toNat ∧ ch.toNat ≤ 0x7D then BitVec.ofNat 8 ch.toNat else 0xFF#8

/-- Whether a character may enter a split-flap effect (R172). -/
def flapPrintable (ch : Char) : Bool := decide (0x20 ≤ ch.toNat) && decide (ch.toNat ≤ 0x7D)

/-! ## Relative offsets -/

/-- `calculate_pos_by_offset` (R137): the wrapped destination, with the row carry of two-line mode. -/
def calculatePos (m : LineMode) (p : Pos) (dx dy : Int) : Except FatalError Pos :=
  let cap : Int := lineCapacity m
  if ¬ inBounds m p then .error (.posOutOfRange p)
  else if ¬ (dx.natAbs < lineCapacity m) then .error (.offsetOutOfRange (.delta dx dy))
  else match m with
    | .twoLine =>
      if ¬ (dy.natAbs ≤ 1) then .error (.offsetOutOfRange (.delta dx dy))
      else
        let t : Int := p.col + dx
        let (c, k) : Int × Nat := if t ≥ cap then (t - cap, 1) else if t < 0 then (t + cap, 1) else (t, 0)
        .ok { col := c.toNat, row := (p.row + dy.natAbs + k) % 2 }
    | .oneLine =>
      if dy ≠ 0 then .error (.offsetOutOfRange (.delta dx dy))
      else .ok { col := ((p.col + dx) % cap).toNat, row := 0 }

/-! ## The window -/

/-- `P_OFFSET_STEP_LTR` as a number. -/
def offsetStep : OffsetStep → Int
  | .plusOne => 1
  | .minusOne => -1

/-- `sigma(d)` (R178): the change of the window offset on one cursor-and-display shift in direction `d`. -/
def sigma (st : OffsetStep) : Direction → Int
  | .leftToRight => offsetStep st
  | .rightToLeft => -offsetStep st

/-- The window offset after one cursor-and-display shift (R136). -/
def shiftOffset (st : OffsetStep) (m : LineMode) (offset : Nat) (d : Direction) : Nat :=
  (((offset : Int) + sigma st d) % (lineCapacity m : Int)).toNat

/-- `steps(d)` (R178): the single steps in direction `d` from one offset to another. -/
def stepsTo (st : OffsetStep) (m : LineMode) (cur tgt : Nat) (d : Direction) : Nat :=
  ((((tgt : Int) - cur) * sigma st d) % (lineCapacity m : Int)).toNat

/-- The direction whose `sigma` has the sign of the move (R178). -/
def directDirection (st : OffsetStep) (cur tgt : Nat) : Direction :=
  match st with
  | .plusOne => if tgt > cur then .leftToRight else .rightToLeft
  | .minusOne => if tgt > cur then .rightToLeft else .leftToRight

/-- `plan(strategy)` (R178): distance and direction of a window shift, for a target that is not the current offset. -/
def planShift (st : OffsetStep) (m : LineMode) (cur tgt : Nat) : Strategy → Nat × Direction
  | .forceLeft => (stepsTo st m cur tgt .rightToLeft, .rightToLeft)
  | .forceRight => (stepsTo st m cur tgt .leftToRight, .leftToRight)
  | .noBoundaryCross => (((tgt : Int) - cur).natAbs, directDirection st cur tgt)
  | .shortest =>
    let l := stepsTo st m cur tgt .leftToRight
    let r := stepsTo st m cur tgt .rightToLeft
    if l < r then (l, .leftToRight)
    else if r < l then (r, .rightToLeft)
    else (l, directDirection st cur tgt)

/-! ## Split-flap operands -/

/-- `start_byte` (R173), computed without wrap-around. -/
def startByte (t : Nat) : Option Nat → Nat
  | none => 0x20
  | some m => max 0x20 (t - m)

/-- The numbers from `lo` to `hi`, ascending. -/
def ascending (lo hi : Nat) : List Nat := (List.range (hi + 1 - lo)).map (lo + ·)

/-- The smallest code of a text; of an empty text, the given value. -/
def minCode : List Char → Nat → Nat
  | [], m => m
  | ch :: text, m => minCode text (min m ch.toNat)

/-- The largest code of a text; of an empty text, the given value. -/
def maxCode : List Char → Nat → Nat
  | [], m => m
  | ch :: text, m => maxCode text (max m ch.toNat)

/-- The position `n` steps on (R176). -/
def stepPosN (m : LineMode) (d : Direction) : Nat → Pos → Pos
  | 0, p => p
  | n + 1, p => stepPosN m d n (stepPos m p d)

/-- The cells of a text, from the first on (R176): each with the code of its target. -/
def cellsOf (m : LineMode) (d : Direction) : List Char → Pos → List (Pos × Nat)
  | [], _ => []
  | ch :: text, p => (p, ch.toNat) :: cellsOf m d text (stepPos m p d)

/-! ## The bridge's latch byte -/

/-- One field of the latch byte at its position (R68). -/
def latchField (b : BitVec 1) (pos : Nat) : Byte := b.setWidth 8 <<< pos

/-- `latch(rs, rw, en, bl, n)` (R68). -/
def latchByte (L : Latch) (rs rw en bl : BitVec 1) (n : Nibble) : Byte :=
  (latchField rs L.rsBit ||| latchField rw L.rwBit ||| latchField en L.enBit ||| latchField bl L.blBit
    ||| (n.setWidth 8 <<< L.dataLsb)) ^^^ L.inverted

/-- The four data bits of a byte read back from the bridge: `(in[0] >> data_lsb)[3:0]` (R113). -/
def latchData (L : Latch) (b : Byte) : Nibble := (b >>> L.dataLsb).extractLsb' 0 4

end Sys2Proof.Machine
end

