-- ==== Sys2Proof/Machine/Flags.lean ====
section
/-! DEFINITION. The block's flags (R31): it has no condition codes and no arithmetic flags. `S.ram_type` is tested by
the transfer operations, `X.first_command_sent` by the bridge's `send`, the controller's busy flag is bit 7 of a byte
read and is not stored, and `halted` is State.halted. -/

namespace Sys2Proof.Machine

/-- The busy flag of a byte read from the command register: bit 7 (R118). With no byte read there is none. -/
def busyFlag : Option Byte → Bool
  | some r => r.getLsbD 7
  | none => false

/-- The test `S.ram_type = DDRAM` of the transfer operations (R197). -/
def requireDdram (S : DisplayState) : Except FatalError Unit :=
  if S.ramType = .ddram then .ok () else .error .wrongRamSpace

/-- The bootstrap Command: the half function set (R86, R110). -/
def bootstrap : Command := { rs := .command, rw := .write, data := .bit4 0b0010#4 }

/-- The bridge's first-command check (R110). -/
def requireBootstrap (X : TransportState) (c : Command) : Except FatalError Unit :=
  if X.firstCommandSent = false ∧ c ≠ bootstrap then .error .i2cFirstCommandNotBootstrap else .ok ()

/-- Whether a Command is a Function set with `W = 1` (R109). -/
def isEightBitRequest (c : Command) : Bool :=
  match c.rs, c.rw, c.data with
  | .command, .write, .bit8 b => b.extractLsb' 5 3 = 0b001#3 && b.getLsbD 4
  | _, _, _ => false

/-- The bridge's width check (R109). -/
def requireFourBit (c : Command) : Except FatalError Unit :=
  if isEightBitRequest c then .error .i2cEightBitRequest else .ok ()

/-- The font/line invariant (R13): not two lines with the 5x11 font. -/
def fontLineOk (m : LineMode) (f : Font) : Bool := !(m = .twoLine && f = .font5x11)

/-- The bounds of `S.cursor_pos` and `S.display_offset` in a line mode (R131). -/
def positionsWithin (m : LineMode) (S : DisplayState) : Bool :=
  inBounds m S.cursorPos && decide (S.displayOffset < lineCapacity m)

end Sys2Proof.Machine
end

