-- ==== Sys2Proof/Machine/Ops.lean ====
section
/-! DEFINITION. The named operations over the state: a fatal error (R191), an interface event and its failure (R33,
R114, R205), the lines (R25), the environment's answers (R57), the sequencer (R29), construction (R220). -/

namespace Sys2Proof.Machine

/-! ## Fatal errors -/

/-- `raise E(info)` (R191): the block is halted with its diagnostic; no other state is written, and the sequencer
keeps the position it stopped at. There is no return from it (R211). -/
def State.raise (s : State) (e : FatalError) : State := { s with fatal := some e }

/-- The code of a fatal error (R192 to R207). -/
def FatalError.code : FatalError → Nat
  | .cgramAddrOutOfRange _ => 1
  | .ddramAddrOutOfRange _ => 2
  | .posOutOfRange _ => 3
  | .offsetOutOfRange _ => 4
  | .invalidFontLine => 5
  | .wrongRamSpace => 6
  | .cgramIndexOutOfRange _ => 7
  | .graphRowOutOfRange _ _ => 8
  | .missingPerCharDelay => 9
  | .nonPrintableInSplitFlap _ => 10
  | .i2cEightBitRequest => 11
  | .unsupportedPinCount _ => 12
  | .i2cFirstCommandNotBootstrap => 13
  | .ioFault _ => 14
  | .malformedCommand => 15
  | .widthTransportMismatch => 16

/-! ## Lines -/

/-- `X.level(line)` (R25). -/
def Levels.get (lv : Levels) : Line → Drive
  | .rs => lv.rs
  | .rw => lv.rw
  | .en => lv.en
  | .bl => lv.bl
  | .dl j => lv.dl[j]

/-- The level after `pin_set(line, v)` (R25). -/
def Levels.set (lv : Levels) (v : Level) : Line → Levels
  | .rs => { lv with rs := .driven v }
  | .rw => { lv with rw := .driven v }
  | .en => { lv with en := .driven v }
  | .bl => { lv with bl := .driven v }
  | .dl j => { lv with dl := lv.dl.set j (.driven v) }

/-! ## The environment's answers (R57) -/

/-- The level the environment answers next. -/
def Env.nextLevel (e : Env) : Level :=
  match e.levels with
  | v :: _ => v
  | [] => .ofBit (Config.freeLevel e.draws)

/-- The environment after it has answered a level. -/
def Env.afterLevel (e : Env) : Env := { e with levels := e.levels.tail, draws := e.draws + 1 }

/-- The byte the environment answers next. -/
def Env.nextByte (e : Env) : Byte :=
  match e.bytes with
  | b :: _ => b
  | [] => Config.freeByte e.draws

/-- The environment after it has answered a byte. -/
def Env.afterByte (e : Env) : Env := { e with bytes := e.bytes.tail, draws := e.draws + 1 }

/-- The next `n` bytes. -/
def Env.nextBytes : Nat → Env → List Byte
  | 0, _ => []
  | n + 1, e => e.nextByte :: Env.nextBytes n e.afterByte

/-- The environment after it has answered `n` bytes. -/
def Env.afterBytes : Nat → Env → Env
  | 0, e => e
  | n + 1, e => Env.afterBytes n e.afterByte

/-- Whether the environment fails the next event (R57, R205). -/
def Env.failsNow (e : Env) : Bool := e.failIn = some 0

/-- The environment after one more event has succeeded. -/
def Env.afterEvent (e : Env) : Env := { e with failIn := e.failIn.map (· - 1) }

/-! ## The sequencer (R29) -/

/-- The position after one more event. -/
def Seq.afterEvent : Seq → Seq
  | .idle => .idle
  | .running n st rest => .running (n + 1) st rest

/-- The position with actions put before those left to do. -/
def Seq.push (ms : List Micro) : Seq → Seq
  | .idle => .idle
  | .running n st rest => .running n st (ms ++ rest)

/-- The position in a named initialisation step (R162). -/
def Seq.enter (st : InitStage) : Seq → Seq
  | .idle => .idle
  | .running n _ rest => .running n (some st) rest

/-- The start of an operation: no event yet, nothing left to do but what it puts there. -/
def Seq.start : Seq := .running 0 none []

/-- Puts actions before those left to do. -/
def State.push (s : State) (ms : List Micro) : State := { s with seq := s.seq.push ms }

/-- After the last action of an operation `seq` is `Idle` again (R30), unless the block has halted (R191). -/
def State.settle (s : State) : State :=
  match s.fatal, s.seq with
  | none, .running _ _ [] => { s with seq := .idle }
  | _, _ => s

/-! ## Interface events (R7, R33) -/

/-- An event that succeeds: it joins the trace, and the sequencer and the environment count it. -/
def State.emit (s : State) (c : Call) (a : Answer) : State :=
  { s with trace := s.trace ++ [{ call := c, answer := a }], seq := s.seq.afterEvent, env := s.env.afterEvent }

/-- What a successful event does: it drives a line (R25), samples one (R103), writes the bridge's latch, reads it
back, keeping the data bits of the byte (R113), or waits (R214). -/
def State.complete (s : State) (c : Call) : State :=
  match c with
  | .pinSet l v => { s.emit c .done with X := { s.X with level := s.X.level.set v l } }
  | .pinGet _ =>
    { s.emit c (.level s.env.nextLevel) with
      rx := s.rx ++ [s.env.nextLevel], env := s.env.afterEvent.afterLevel }
  | .i2cWrite _ _ => s.emit c .done
  | .i2cWriteRead _ _ n =>
    { s.emit c (.bytes (s.env.nextBytes n)) with
      rx := s.rx ++ levelsOfNibble (latchData s.params.latch ((s.env.nextBytes n).headD 0))
      env := s.env.afterEvent.afterBytes n }
  | .delayUs _ => s.emit c .done
  | .delayMs _ => s.emit c .done

/-- An interface event: it succeeds, or it fails, which is the fatal error `IoFault` with nothing emitted (R114). -/
def State.perform (s : State) (c : Call) : State :=
  if s.env.failsNow then s.raise (.ioFault c) else s.complete c

/-! ## Construction (R220, R121) -/

/-- The data lines of a parallel transport; the bridge has none of its own (R4, R25). -/
def dataLines : Transport → Option Nat
  | .parallelFourBit => some 4
  | .parallelEightBit => some 8
  | .i2cBridge => none

/-- The checks of construction, in order: the pin count, then the font/line invariant (R220). -/
def constructionError (p : Params) : Option FatalError :=
  match dataLines p.transport with
  | some n =>
    if p.pinCnt ≠ n then some (.unsupportedPinCount p.pinCnt)
    else if fontLineOk p.config.lineMode p.config.font then none else some .invalidFontLine
  | none => if fontLineOk p.config.lineMode p.config.font then none else some .invalidFontLine

/-- Construction (R220): the values of R34, or a block halted by the first check that fails. It emits no event. DESIGN
CHOICE (log entry 22): what `S`, `X` and `seq` hold in a block refused at construction the spec leaves open (R220 checks
before it sets the state, and R34, R121 and R191 give no values there); here they hold the values of R34 for the refused
parameters, as they are, with `seq` at the start of an operation that never ends. -/
def State.construct (p : Params) : State :=
  match constructionError p with
  | none => State.constructed p
  | some e => { State.constructed p with seq := Seq.start }.raise e

end Sys2Proof.Machine
end

