-- ==== Sys2Proof/Machine/Encoder.lean ====
section
/-! DEFINITION. The Command Encoder (40_encoder_instructions.md): a pure function from a logical instruction to a
Command, one definition per instruction (R81 to R92). -/

namespace Sys2Proof.Machine

/-- A field of an instruction byte moved to its bit position. -/
def fieldAt (b : BitVec 1) (pos : Nat) : Byte := b.setWidth 8 <<< pos

/-- An instruction write with an 8-bit payload (R61). -/
def instructionWrite (b : Byte) : Command := { rs := .command, rw := .write, data := .bit8 b }

/-- R81. -/
def encodeClearDisplay : Command := instructionWrite 0x01

/-- R82. -/
def encodeReturnHome : Command := instructionWrite 0x02

/-- R83. -/
def encodeEntryModeSet (dir : Direction) (shift : ShiftType) : Command :=
  instructionWrite (0x04 ||| fieldAt dir.bit 1 ||| fieldAt shift.bit 0)

/-- R84. -/
def encodeDisplayOnOff (display cursor blink : Switch) : Command :=
  instructionWrite (0x08 ||| fieldAt display.bit 2 ||| fieldAt cursor.bit 1 ||| fieldAt blink.bit 0)

/-- R85. -/
def encodeCursorOrDisplayShift (shift : ShiftType) (dir : Direction) : Command :=
  instructionWrite (0x10 ||| fieldAt shift.bit 3 ||| fieldAt dir.bit 2)

/-- R86. -/
def encodeHalfFunctionSet : Command := { rs := .command, rw := .write, data := .bit4 0b0010 }

/-- R87. -/
def encodeFunctionSet (width : DataWidth) (line : LineMode) (font : Font) : Command :=
  instructionWrite (0x20 ||| fieldAt width.bit 4 ||| fieldAt line.bit 3 ||| fieldAt font.bit 2)

/-- R88: the check is on the operand, before any masking. -/
def encodeSetCGRAM (addr : Nat) : Except FatalError Command :=
  if addr < 64 then .ok (instructionWrite (0x40 ||| BitVec.ofNat 8 addr)) else .error (.cgramAddrOutOfRange addr)

/-- R89. -/
def encodeSetDDRAM (addr : Nat) : Except FatalError Command :=
  if addr < 128 then .ok (instructionWrite (0x80 ||| BitVec.ofNat 8 addr)) else .error (.ddramAddrOutOfRange addr)

/-- R90. -/
def encodeReadBusyFlagAndAddress : Command := { rs := .command, rw := .read, data := .none }

/-- R91. -/
def encodeWriteDataToRAM (byte : Byte) : Command := { rs := .data, rw := .write, data := .bit8 byte }

/-- R92. -/
def encodeReadDataFromRAM : Command := { rs := .data, rw := .read, data := .none }

/-- `encode` (R80): the Command of an instruction, or the fatal error of an address out of range. -/
def encodeCommand : Instr → Except FatalError Command
  | .clearDisplay => .ok encodeClearDisplay
  | .returnHome => .ok encodeReturnHome
  | .entryModeSet dir shift => .ok (encodeEntryModeSet dir shift)
  | .displayOnOff display cursor blink => .ok (encodeDisplayOnOff display cursor blink)
  | .cursorOrDisplayShift shift dir => .ok (encodeCursorOrDisplayShift shift dir)
  | .halfFunctionSet => .ok encodeHalfFunctionSet
  | .functionSet width line font => .ok (encodeFunctionSet width line font)
  | .setCGRAM addr => encodeSetCGRAM addr
  | .setDDRAM addr => encodeSetDDRAM addr
  | .readBusyFlagAndAddress => .ok encodeReadBusyFlagAndAddress
  | .writeDataToRAM byte => .ok (encodeWriteDataToRAM byte)
  | .readDataFromRAM => .ok encodeReadDataFromRAM

/-- `fs_cmd()` (R132). -/
def DisplayState.functionSetCommand (S : DisplayState) : Command := encodeFunctionSet S.dataWidth S.lineMode S.font

/-- `dc_cmd()` (R132). -/
def DisplayState.displayControlCommand (S : DisplayState) : Command :=
  encodeDisplayOnOff S.displayOn S.cursorOn S.cursorBlink

/-- `em_cmd()` (R132). -/
def DisplayState.entryModeCommand (S : DisplayState) : Command := encodeEntryModeSet S.direction S.shiftType

end Sys2Proof.Machine
end

