-- ==== Sys2Proof/Machine/Transport.lean ====
section
/-! DEFINITION. The transport sequencer (41_transport.md): the wire sequence of a Command on each of the three buses
(R100 to R113), as a list of events and silent elements that depends on the state at the start of the `send` only, and
its execution. -/

namespace Sys2Proof.Machine

/-! ## Parallel helpers (R103) -/

/-- `pin_set(line, v)` as a wire element. -/
def setLine (l : Line) (v : Level) : Wire := .call (.pinSet l v)

/-- `pin_get(DL[j])` as a wire element. -/
def getLine (j : Fin 8) : Wire := .call (.pinGet (.dl j))

/-- `prologue(c)`: `RS`, then `RW` (R101, R103). -/
def prologue (c : Command) : List Wire := [setLine .rs (rsLevel c.rs), setLine .rw (rwLevel c.rw)]

/-- `strobe()`: enable high, then low (R101, R103). -/
def strobe : List Wire := [setLine .en .high, setLine .en .low]

/-- `put(v)` on four lines, ascending (R102, R103). -/
def putNibble (n : Nibble) : List Wire :=
  [setLine (.dl 0) (.ofBit (n.getLsbD 0)), setLine (.dl 1) (.ofBit (n.getLsbD 1)),
    setLine (.dl 2) (.ofBit (n.getLsbD 2)), setLine (.dl 3) (.ofBit (n.getLsbD 3))]

/-- `put(v)` on eight lines, ascending (R102, R103). -/
def putByte (b : Byte) : List Wire :=
  [setLine (.dl 0) (.ofBit (b.getLsbD 0)), setLine (.dl 1) (.ofBit (b.getLsbD 1)),
    setLine (.dl 2) (.ofBit (b.getLsbD 2)), setLine (.dl 3) (.ofBit (b.getLsbD 3)),
    setLine (.dl 4) (.ofBit (b.getLsbD 4)), setLine (.dl 5) (.ofBit (b.getLsbD 5)),
    setLine (.dl 6) (.ofBit (b.getLsbD 6)), setLine (.dl 7) (.ofBit (b.getLsbD 7))]

/-- `get()` on four lines: release, enable high, sample, enable low (R103). -/
def getNibble : List Wire :=
  [setLine (.dl 0) .high, setLine (.dl 1) .high, setLine (.dl 2) .high, setLine (.dl 3) .high,
    setLine .en .high, getLine 0, getLine 1, getLine 2, getLine 3, setLine .en .low]

/-- `get()` on eight lines (R103). -/
def getByte : List Wire :=
  [setLine (.dl 0) .high, setLine (.dl 1) .high, setLine (.dl 2) .high, setLine (.dl 3) .high,
    setLine (.dl 4) .high, setLine (.dl 5) .high, setLine (.dl 6) .high, setLine (.dl 7) .high,
    setLine .en .high, getLine 0, getLine 1, getLine 2, getLine 3, getLine 4, getLine 5, getLine 6, getLine 7,
    setLine .en .low]

/-! ## Parallel, 4-bit (R104, R106) -/

/-- `send` on four lines, for a well-formed Command. -/
def fourBitWires (c : Command) : List Wire :=
  match c.data with
  | .bit8 b =>
    prologue c ++ putNibble (highNibble b) ++ strobe ++ putNibble (lowNibble b) ++ strobe ++ [.ret c .none]
  | .bit4 n => prologue c ++ putNibble n ++ strobe ++ [.ret c .none]
  | .none => prologue c ++ getNibble ++ getNibble ++ [.ret c .nibbles]

/-! ## Parallel, 8-bit (R105, R107) -/

/-- `send` on eight lines, for a well-formed Command: a 4-bit payload is `MalformedCommand` (R105). -/
def eightBitWires (c : Command) : Except FatalError (List Wire) :=
  match c.data with
  | .bit8 b => .ok (prologue c ++ putByte b ++ strobe ++ [.ret c .none])
  | .bit4 _ => .error .malformedCommand
  | .none => .ok (prologue c ++ getByte ++ [.ret c .byte])

/-! ## The bridge (R109 to R113) -/

/-- One latch byte of a Command's transfer, with the backlight bit in it (R68, R111). -/
def bridgeByte (s : State) (rs : RegSel) (rw : ReadWrite) (en : BitVec 1) (n : Nibble) : Byte :=
  latchByte s.params.latch rs.bit rw.bit en s.X.backlight.bit n

/-- `wr_nibble(rs, n)`: three writes, the middle one with enable high (R111). -/
def writeNibble (s : State) (rs : RegSel) (n : Nibble) : List Wire :=
  [.call (.i2cWrite s.X.addr [bridgeByte s rs .write 0#1 n]),
    .call (.i2cWrite s.X.addr [bridgeByte s rs .write 1#1 n]),
    .call (.i2cWrite s.X.addr [bridgeByte s rs .write 0#1 n])]

/-- `rd_nibble(rs)`: the middle transaction reads one byte back (R113). -/
def readNibble (s : State) (rs : RegSel) : List Wire :=
  [.call (.i2cWrite s.X.addr [bridgeByte s rs .read 0#1 0b1111#4]),
    .call (.i2cWriteRead s.X.addr [bridgeByte s rs .read 1#1 0b1111#4] 1),
    .call (.i2cWrite s.X.addr [bridgeByte s rs .read 0#1 0b1111#4])]

/-- The transfer of a well-formed Command over the bridge (R112, R113); `X.first_command_sent` is set after its last
transaction (R110). -/
def bridgeTransfer (s : State) (c : Command) : List Wire :=
  match c.data with
  | .bit8 b => writeNibble s c.rs (highNibble b) ++ writeNibble s c.rs (lowNibble b) ++ [.sentFirst, .ret c .none]
  | .bit4 n => writeNibble s c.rs n ++ [.sentFirst, .ret c .none]
  | .none => readNibble s c.rs ++ readNibble s c.rs ++ [.sentFirst, .ret c .nibbles]

/-- `send` on the bridge, for a well-formed Command: the first-command check, then the width check (R109, R110). -/
def bridgeWires (s : State) (c : Command) : Except FatalError (List Wire) :=
  match requireBootstrap s.X c with
  | .error e => .error e
  | .ok _ =>
    match requireFourBit c with
    | .error e => .error e
    | .ok _ => .ok (bridgeTransfer s c)

/-! ## `send` (R100) -/

/-- The wire sequence of a Command on the block's transport, or the fatal error raised before its first event (R100,
R209). -/
def wiresOf (s : State) (c : Command) : Except FatalError (List Wire) :=
  if c.wellFormed then
    match s.params.transport with
    | .parallelFourBit => .ok (fourBitWires c)
    | .parallelEightBit => eightBitWires c
    | .i2cBridge => bridgeWires s c
  else .error .malformedCommand

/-- The byte a finished transfer returns (R100). -/
def readBackByte (levels : List Level) : ReadBack → Option Byte
  | .none => none
  | .nibbles => some (byteOfNibbles levels)
  | .byte => some (byteOfLevels levels)

/-- One wire element. -/
def State.wire (s : State) : Wire → State
  | .call c => s.perform c
  | .sentFirst => { s with X := { s.X with firstCommandSent := true } }
  | .ret c r => { s with sent := readBackByte s.rx r, delivered := s.delivered ++ [c] }

/-- A wire sequence up to its end or to the first event that fails (R114). -/
def State.runWires : List Wire → State → State
  | [], s => s
  | w :: ws, s =>
    let s' := s.wire w
    if s'.halted then s' else State.runWires ws s'

/-- A `send` from its start to its end: the read buffer is emptied, then the sequence runs. -/
def State.sendNow (s : State) (c : Command) : State :=
  match wiresOf s c with
  | .error e => s.raise e
  | .ok ws => State.runWires ws { s with rx := [] }

/-- The value an operation returns from the optional byte of its last `send` (R100, R116, R117). -/
def resultOfSent : Option Byte → Result
  | some b => .byte b
  | none => .nothing

/-- A Command requested as a whole operation, `send(encode(i))` or raw `send(c)`, run from its first event to its last
in one step; the encoder's own fatal error comes first (R88, R89). In a halted block it stops (R28). -/
def deliver (c : Except FatalError Command) (s : State) : Host.Outcome State Fault Refusal :=
  match s.fatal with
  | some e => .fault (.halted e)
  | none =>
    let s₁ : State := { s with seq := Seq.start, result := .nothing }
    match c with
    | .error e => .next (s₁.raise e)
    | .ok c =>
      let s₂ := s₁.sendNow c
      if s₂.halted then .next s₂ else .next { s₂ with seq := s.seq, result := resultOfSent s₂.sent }

end Sys2Proof.Machine
end

