-- ==== Sys2Proof/Machine/Control.lean ====
section
/-! DEFINITION. The meanings of the instruction writes: an instruction requested by itself is `send(encode(i))` (R7,
R60, R100). It changes no field of the shadow `S`: "the shadow update itself is done by the façade operation that sends
the instruction, not by the encoder" (40_encoder_instructions.md), and a host that uses `send` directly "bypasses the
shadow" (R100, R56). The façade operations are in Display.lean, Facade.lean and Animation.lean. -/

namespace Sys2Proof.Machine

/-- R81. -/
def execClearDisplay (s : State) : Host.Outcome State Fault Refusal := deliver (.ok encodeClearDisplay) s

/-- R82. -/
def execReturnHome (s : State) : Host.Outcome State Fault Refusal := deliver (.ok encodeReturnHome) s

/-- R83. -/
def execEntryModeSet (dir : Direction) (shift : ShiftType) (s : State) : Host.Outcome State Fault Refusal :=
  deliver (.ok (encodeEntryModeSet dir shift)) s

/-- R84. -/
def execDisplayOnOff (display cursor blink : Switch) (s : State) : Host.Outcome State Fault Refusal :=
  deliver (.ok (encodeDisplayOnOff display cursor blink)) s

/-- R85. -/
def execCursorOrDisplayShift (shift : ShiftType) (dir : Direction) (s : State) :
    Host.Outcome State Fault Refusal :=
  deliver (.ok (encodeCursorOrDisplayShift shift dir)) s

/-- R86. -/
def execHalfFunctionSet (s : State) : Host.Outcome State Fault Refusal := deliver (.ok encodeHalfFunctionSet) s

/-- R87. -/
def execFunctionSet (width : DataWidth) (line : LineMode) (font : Font) (s : State) :
    Host.Outcome State Fault Refusal :=
  deliver (.ok (encodeFunctionSet width line font)) s

end Sys2Proof.Machine
end

