-- ==== Sys2Proof/Machine/Transfer.lean ====
section
/-! DEFINITION. The meanings of the address instructions, the busy-flag read and the two data transfers: as in
Control.lean, `send(encode(i))`. -/

namespace Sys2Proof.Machine

/-- R88. -/
def execSetCGRAM (addr : Nat) (s : State) : Host.Outcome State Fault Refusal := deliver (encodeSetCGRAM addr) s

/-- R89. -/
def execSetDDRAM (addr : Nat) (s : State) : Host.Outcome State Fault Refusal := deliver (encodeSetDDRAM addr) s

/-- R90. -/
def execReadBusyFlagAndAddress (s : State) : Host.Outcome State Fault Refusal :=
  deliver (.ok encodeReadBusyFlagAndAddress) s

/-- R91. -/
def execWriteDataToRAM (byte : Byte) (s : State) : Host.Outcome State Fault Refusal :=
  deliver (.ok (encodeWriteDataToRAM byte)) s

/-- R92. -/
def execReadDataFromRAM (s : State) : Host.Outcome State Fault Refusal := deliver (.ok encodeReadDataFromRAM) s

end Sys2Proof.Machine
end

