-- ==== Sys2Proof/Machine/Dispatch.lean ====
section
/-! DEFINITION. One arm per instruction of spec/opcode_table.json. -/

namespace Sys2Proof.Machine

/-- The meaning of an instruction requested by itself. -/
def exec (i : Instr) (s : State) : Host.Outcome State Fault Refusal :=
  match i with
  | .clearDisplay => Sys2Proof.Machine.execClearDisplay s
  | .returnHome => Sys2Proof.Machine.execReturnHome s
  | .entryModeSet dir shift => Sys2Proof.Machine.execEntryModeSet dir shift s
  | .displayOnOff display cursor blink => Sys2Proof.Machine.execDisplayOnOff display cursor blink s
  | .cursorOrDisplayShift shift dir => Sys2Proof.Machine.execCursorOrDisplayShift shift dir s
  | .halfFunctionSet => Sys2Proof.Machine.execHalfFunctionSet s
  | .functionSet width line font => Sys2Proof.Machine.execFunctionSet width line font s
  | .setCGRAM addr => Sys2Proof.Machine.execSetCGRAM addr s
  | .setDDRAM addr => Sys2Proof.Machine.execSetDDRAM addr s
  | .readBusyFlagAndAddress => Sys2Proof.Machine.execReadBusyFlagAndAddress s
  | .writeDataToRAM byte => Sys2Proof.Machine.execWriteDataToRAM byte s
  | .readDataFromRAM => Sys2Proof.Machine.execReadDataFromRAM s

end Sys2Proof.Machine
end

