-- ==== Sys2Proof/Machine/Display.lean ====
section
/-! DEFINITION. The operations of the transport (R100, R116 to R120) and of the display state (42_display_state.md). Each
definition is the operation's start: its checks in the order of its rule, then its assignments, answered as the state
they leave and the actions that follow (R130, R191). A check that fails answers the fatal error, with nothing
assigned. -/

namespace Sys2Proof.Machine

/-- The start of an operation: a fatal error, or the state after its checks and assignments and the actions left. -/
abbrev Start := Except FatalError (State × List Micro)

/-- An event as an action. -/
def event (c : Call) : Micro := .wire (.call c)

/-- Sends a busy-polled Command after assigning `S` (R130). -/
def assignThenSend (s : State) (S : DisplayState) (c : Command) : Start := .ok ({ s with S := S }, [.waitIdle c])

/-- Returns a value with no event. -/
def returnNow (s : State) (r : Result) : Start := .ok ({ s with result := r }, [])

/-! ## The encoder and the transport -/

/-- The encoder called by the host (R80, R193). -/
def startEncode (i : Instr) (s : State) : Start :=
  match encodeCommand i with
  | .error e => .error e
  | .ok c => returnNow s (.command c)

/-- `send(c)` (R100). -/
def startSend (c : Command) (s : State) : Start := .ok (s, [.send c, .returnSent])

/-- `delay_then_send(c, t)` (R116). -/
def startDelayThenSend (c : Command) (t : Nat) (s : State) : Start :=
  .ok (s, [event (.delayUs t), .send c, .returnSent])

/-- `wait_until_idle_then_send(c)` (R117). -/
def startWaitUntilIdleThenSend (c : Command) (s : State) : Start := .ok (s, [.waitIdle c, .returnSent])

/-- `is_busy()` (R118). -/
def startIsBusy (s : State) : Start := .ok (s, [.send encodeReadBusyFlagAndAddress, .returnBusy])

/-- The value of `get_backlight` (R119). -/
def backlightNow (s : State) : Switch :=
  match s.params.transport with
  | .i2cBridge => s.X.backlight
  | .parallelFourBit => if s.params.hasBacklight = true ∧ s.X.level.bl = .driven .high then .on else .off
  | .parallelEightBit => if s.params.hasBacklight = true ∧ s.X.level.bl = .driven .high then .on else .off

/-- `get_backlight()` (R119). -/
def startGetBacklight (s : State) : Start := returnNow s (.switch (backlightNow s))

/-- `set_backlight(v)` (R120). -/
def startSetBacklight (v : Switch) (s : State) : Start :=
  let s' : State := { s with S := { s.S with backlight := v } }
  match s.params.transport with
  | .i2cBridge =>
    .ok ({ s' with X := { s'.X with backlight := v } },
      [event (.i2cWrite s.X.addr [latchByte s.params.latch 0#1 0#1 0#1 v.bit 0#4])])
  | .parallelFourBit => .ok (s', if s.params.hasBacklight then [event (.pinSet .bl (backlightLevel v))] else [])
  | .parallelEightBit => .ok (s', if s.params.hasBacklight then [event (.pinSet .bl (backlightLevel v))] else [])

/-! ## Reading the shadow and the offset arithmetic -/

/-- The value of a field of the shadow, or of a constant derived from it (R148). -/
def fieldValue (S : DisplayState) : Field → Result
  | .dataWidth => .dataWidth S.dataWidth
  | .lineMode => .lineMode S.lineMode
  | .font => .font S.font
  | .displayOn => .switch S.displayOn
  | .cursorOn => .switch S.cursorOn
  | .cursorBlink => .switch S.cursorBlink
  | .direction => .direction S.direction
  | .shiftType => .shiftType S.shiftType
  | .cursorPos => .pos S.cursorPos
  | .displayOffset => .nat S.displayOffset
  | .ramType => .ramType S.ramType
  | .backlight => .switch S.backlight
  | .lineCapacity => .nat (lineCapacity S.lineMode)
  | .rowCount => .nat (rowCount S.lineMode)

/-- R148. -/
def startGet (f : Field) (s : State) : Start := returnNow s (fieldValue s.S f)

/-- R137. -/
def startCalculatePosByOffset (pos : Pos) (dx dy : Int) (s : State) : Start :=
  match calculatePos s.S.lineMode pos dx dy with
  | .error e => .error e
  | .ok p => returnNow s (.pos p)

/-! ## Addressing -/

/-- `set_cursor_pos(pos)` (R138). The address of a position within bounds is always below 128 (R44), so the
encoder's own check never fails here. -/
def startSetCursorPos (pos : Pos) (s : State) : Start :=
  if ¬ inBounds s.S.lineMode pos then .error (.posOutOfRange pos)
  else match encodeSetDDRAM (ddramAddr s.S.lineMode pos) with
    | .error e => .error e
    | .ok c => assignThenSend s { s.S with cursorPos := pos, ramType := .ddram } c

/-- `set_cgram_addr(a)` (R139): the encoder's own check is made first. -/
def startSetCgramAddr (a : Nat) (s : State) : Start :=
  match encodeSetCGRAM a with
  | .error e => .error e
  | .ok c => assignThenSend s { s.S with ramType := .cgram } c

/-- `shift_cursor_or_display(shift, dir)` (R140), with the state halves of R135 and R136. -/
def startShiftCursorOrDisplay (shift : ShiftType) (dir : Direction) (s : State) : Start :=
  match shift with
  | .cursorOnly =>
    assignThenSend s { s.S with cursorPos := stepPos s.S.lineMode s.S.cursorPos dir }
      (encodeCursorOrDisplayShift .cursorOnly dir)
  | .cursorAndDisplay =>
    assignThenSend s
      { s.S with displayOffset := shiftOffset s.params.offsetStepLtr s.S.lineMode s.S.displayOffset dir }
      (encodeCursorOrDisplayShift .cursorAndDisplay dir)

/-! ## Configuration setters -/

/-- `set_line_mode(m)` (R141). -/
def startSetLineMode (m : LineMode) (s : State) : Start :=
  if ¬ fontLineOk m s.S.font then .error .invalidFontLine
  else if ¬ positionsWithin m s.S then .error (.posOutOfRange s.S.cursorPos)
  else
    let S : DisplayState := { s.S with lineMode := m }
    assignThenSend s S S.functionSetCommand

/-- `set_font(f)` (R142). -/
def startSetFont (f : Font) (s : State) : Start :=
  if ¬ fontLineOk s.S.lineMode f then .error .invalidFontLine
  else
    let S : DisplayState := { s.S with font := f }
    assignThenSend s S S.functionSetCommand

/-- `set_display_on(v)` (R143). -/
def startSetDisplayOn (v : Switch) (s : State) : Start :=
  let S : DisplayState := { s.S with displayOn := v }
  assignThenSend s S S.displayControlCommand

/-- `set_cursor_on(v)` (R145). -/
def startSetCursorOn (v : Switch) (s : State) : Start :=
  let S : DisplayState := { s.S with cursorOn := v }
  assignThenSend s S S.displayControlCommand

/-- `set_cursor_blink(v)` (R146). -/
def startSetCursorBlink (v : Switch) (s : State) : Start :=
  let S : DisplayState := { s.S with cursorBlink := v }
  assignThenSend s S S.displayControlCommand

/-- `set_direction(d)` (R144). -/
def startSetDirection (d : Direction) (s : State) : Start :=
  let S : DisplayState := { s.S with direction := d }
  assignThenSend s S S.entryModeCommand

/-- `set_shift_type(t)` (R147). -/
def startSetShiftType (t : ShiftType) (s : State) : Start :=
  let S : DisplayState := { s.S with shiftType := t }
  assignThenSend s S S.entryModeCommand

end Sys2Proof.Machine
end

