-- ==== Sys2Proof/Machine/Facade.lean ====
section
/-! DEFINITION. The driver façade (43_facade.md): initialisation, clear and home, transfers at the cursor and at a
position, glyph programming. Each definition is an operation's start, as in Display.lean. -/

namespace Sys2Proof.Machine

/-! ## Initialisation (R151 to R153, R162) -/

/-- Cursor home, window home, DDRAM (R153 step T2, R155, R156). -/
def DisplayState.homed (S : DisplayState) : DisplayState :=
  { S with cursorPos := { col := 0, row := 0 }, displayOffset := 0, ramType := .ddram }

/-- The precondition of `init` on the data width (R151, R222). -/
def initWidthError (s : State) : Option FatalError :=
  match s.params.transport, s.S.dataWidth with
  | .i2cBridge, .bit4 => none
  | .i2cBridge, .bit8 => some .i2cEightBitRequest
  | .parallelFourBit, .bit4 => if s.params.pinCnt = 4 then none else some .widthTransportMismatch
  | .parallelFourBit, .bit8 => if s.params.pinCnt = 8 then none else some .widthTransportMismatch
  | .parallelEightBit, .bit4 => if s.params.pinCnt = 4 then none else some .widthTransportMismatch
  | .parallelEightBit, .bit8 => if s.params.pinCnt = 8 then none else some .widthTransportMismatch

/-- The first steps on the 4-bit path (R151): plain sends and fixed delays. -/
def initFourBit (S : DisplayState) : List Micro :=
  [.stage .i1, .send encodeHalfFunctionSet, event (.delayMs 40),
    .stage .i2, .send S.functionSetCommand, event (.delayUs 40),
    .stage .i3, .send S.functionSetCommand, event (.delayUs 40)]

/-- The first steps on the 8-bit path (R152). -/
def initEightBit (S : DisplayState) : List Micro :=
  [.stage .i1, .send S.functionSetCommand, event (.delayMs 40),
    .stage .i2, .send S.functionSetCommand, event (.delayUs 40)]

/-- The common tail (R153). The Commands are those of `S` at the start: no step changes the fields they carry. -/
def initTail (S : DisplayState) : List Micro :=
  [.stage .t1, .waitIdle S.displayControlCommand,
    .stage .t2, .home, .waitIdle encodeClearDisplay,
    .stage .t3, .waitIdle S.entryModeCommand,
    .stage .t4, .pushBacklight]

/-- `init()` (R151 to R153). -/
def startInit (s : State) : Start :=
  match initWidthError s with
  | some e => .error e
  | none =>
    match s.S.dataWidth with
    | .bit4 => .ok (s, initFourBit s.S ++ initTail s.S)
    | .bit8 => .ok (s, initEightBit s.S ++ initTail s.S)

/-! ## Clear and home -/

/-- `clear_display()` (R155). -/
def startClearDisplay (s : State) : Start :=
  assignThenSend s
    { s.S.homed with direction := if s.params.clearSetsLtr then .leftToRight else s.S.direction } encodeClearDisplay

/-- `return_home()` (R156). -/
def startReturnHome (s : State) : Start := assignThenSend s s.S.homed encodeReturnHome

/-! ## Transfers at the cursor -/

/-- `write_u8_to_cur(b)` (R154). -/
def startWriteU8ToCur (b : Byte) (s : State) : Start :=
  match requireDdram s.S with
  | .error e => .error e
  | .ok _ => .ok (s, [.waitIdle (encodeWriteDataToRAM b), .stepCursor])

/-- `read_u8_from_cur()` (R159). -/
def startReadU8FromCur (s : State) : Start :=
  match requireDdram s.S with
  | .error e => .error e
  | .ok _ => .ok (s, [.waitIdle encodeReadDataFromRAM, .stepCursor, .returnSent])

/-- `write_char_to_cur(ch)` (R157). -/
def startWriteCharToCur (ch : Char) (s : State) : Start :=
  match requireDdram s.S with
  | .error e => .error e
  | .ok _ => .ok (s, [.call (.writeU8ToCur (charByte ch))])

/-! ## Glyph programming -/

/-- The first row above 0x1F, with its index (R199). -/
def badRow : Nat → List Byte → Option (Nat × Byte)
  | _, [] => none
  | k, r :: rows => if r.toNat ≤ 0x1F then badRow (k + 1) rows else some (k, r)

/-- The forcing of a direction around the glyph burst, when the configured one is right-to-left (R158). -/
def forceDirection (saved d : Direction) : List Micro :=
  match saved with
  | .rightToLeft => [.call (.setDirection d)]
  | .leftToRight => []

/-- `write_graph_to_cgram(index, rows)` (R158). -/
def startWriteGraphToCgram (index : Nat) (rows : Vector Byte 8) (s : State) : Start :=
  if ¬ (index ≤ 7) then .error (.cgramIndexOutOfRange index)
  else match badRow 0 rows.toList with
    | some (k, r) => .error (.graphRowOutOfRange k r)
    | none =>
      .ok (s,
        forceDirection s.S.direction .leftToRight ++ [.call (.setCgramAddr (slotBase index))]
          ++ rows.toList.map (fun r => .waitIdle (encodeWriteDataToRAM r))
          ++ forceDirection s.S.direction .rightToLeft)

/-! ## Transfers at a position -/

/-- `read_byte_from_pos(pos)` (R160). The byte read is the operation's result: the two repositionings return
nothing. -/
def startReadByteFromPos (pos : Pos) (s : State) : Start :=
  if ¬ inBounds s.S.lineMode pos then .error (.posOutOfRange pos)
  else .ok (s, [.call (.setCursorPos pos), .call .readU8FromCur, .call (.setCursorPos s.S.cursorPos)])

/-- `write_byte_to_pos(pos, b)` (R161). -/
def startWriteByteToPos (pos : Pos) (b : Byte) (s : State) : Start :=
  if ¬ inBounds s.S.lineMode pos then .error (.posOutOfRange pos)
  else .ok (s, [.call (.setCursorPos pos), .call (.writeU8ToCur b), .call (.setCursorPos s.S.cursorPos)])

end Sys2Proof.Machine
end

