-- ==== Sys2Proof/Machine/Animation.lean ====
section
/-! DEFINITION. The animation macro layer (44_animation.md): each operation is a sequence of the operations of
Display.lean and Facade.lean with delays between them. All checks of a macro come before its first event (R170). -/

namespace Sys2Proof.Machine

/-! ## Typewriter -/

/-- `typewriter(text, d)` (R171). -/
def startTypewriter (text : List Char) (d : Nat) (s : State) : Start :=
  match requireDdram s.S with
  | .error e => .error e
  | .ok _ => .ok (s, text.flatMap fun ch => [event (.delayUs d), .call (.writeCharToCur ch)])

/-! ## Split-flap -/

/-- The checks of R172: the first unprintable character, then the RAM space. -/
def splitFlapError (text : List Char) (S : DisplayState) : Option FatalError :=
  match text.find? (fun ch => !flapPrintable ch) with
  | some ch => some (.nonPrintableInSplitFlap ch)
  | none => if S.ramType = .ddram then none else some .wrongRamSpace

/-- The effect between the forced and the restored cursor visibility (R175). -/
def hidingCursor (S : DisplayState) (effect : List Micro) : List Micro :=
  .call (.setCursorOn .off) :: effect ++ [.call (.setCursorOn S.cursorOn)]

/-- The flips of one character at the cursor's cell (R174): from the start byte to the target, with a return to the
cell after every flip but the last. -/
def flipActions (cell : Pos) (target : Nat) (maxFlipCount : Option Nat) (perFlip : Nat) : List Micro :=
  (ascending (startByte target maxFlipCount) target).flatMap fun b =>
    [event (.delayUs perFlip), .call (.writeU8ToCur (BitVec.ofNat 8 b))]
      ++ (if b < target then [.call (.setCursorPos cell)] else [])

/-- `split_flap_sequential(text, max_flip_count, per_flip, per_char)` (R174). -/
def startSplitFlapSequential (text : List Char) (maxFlipCount : Option Nat) (perFlip : Nat) (perChar : Option Nat)
    (s : State) : Start :=
  match splitFlapError text s.S with
  | some e => .error e
  | none =>
    match perChar with
    | none => .error .missingPerCharDelay
    | some d =>
      .ok (s, hidingCursor s.S
        (text.flatMap fun ch => [event (.delayUs d), .flips ch.toNat maxFlipCount perFlip]))

/-- One step of the shared scan (R176): the current byte into every cell that has not passed its target, then the delay.
DESIGN CHOICE (log entry 24): R170 and D30 put every delay before its action, R176 and V8 put this one after the writes, and
no file of the spec says which holds; the model follows R176. -/
def scanStep (cells : List (Pos × Nat)) (b perFlip : Nat) : List Micro :=
  ((cells.filter fun cell => decide (b ≤ cell.2)).flatMap fun cell =>
      [.call (.setCursorPos cell.1), .call (.writeU8ToCur (BitVec.ofNat 8 b))])
    ++ [event (.delayUs perFlip)]

/-- `split_flap_simultaneous(text, max_flip_count, per_flip)` (R176). -/
def startSplitFlapSimultaneous (text : List Char) (maxFlipCount : Option Nat) (perFlip : Nat) (s : State) : Start :=
  match splitFlapError text s.S with
  | some e => .error e
  | none =>
    match text with
    | [] => .ok (s, [])
    | ch :: more =>
      let lo := minCode more ch.toNat
      let hi := maxCode more ch.toNat
      let cells := cellsOf s.S.lineMode s.S.direction text s.S.cursorPos
      let final := stepPosN s.S.lineMode s.S.direction text.length s.S.cursorPos
      .ok (s, hidingCursor s.S
        ((ascending (startByte lo maxFlipCount) hi).flatMap (fun b => scanStep cells b perFlip)
          ++ [.call (.setCursorPos final)]))

/-! ## Window shift -/

/-- `shift_display_to_pos(tgt, strategy, display_during, per_step)` (R180). -/
def startShiftDisplayToPos (target : Nat) (strategy : Strategy) (displayDuring : Switch) (perStep : Nat)
    (s : State) : Start :=
  if ¬ (target < lineCapacity s.S.lineMode) then .error (.offsetOutOfRange (.target target))
  else if target = s.S.displayOffset then .ok (s, [])
  else
    let plan := planShift s.params.offsetStepLtr s.S.lineMode s.S.displayOffset target strategy
    .ok (s,
      [.call (.setDisplayOn displayDuring)]
        ++ (List.replicate plan.1
              [event (.delayUs perStep), .call (.shiftCursorOrDisplay .cursorAndDisplay plan.2)]).flatten
        ++ [.call (.setDisplayOn s.S.displayOn)])

/-! ## Blink -/

/-- `full_display_blink(count, interval)` (R183): `2 * count` toggles, or toggles for ever. -/
def startFullDisplayBlink (count interval : Nat) (s : State) : Start :=
  .ok (s, [.blink (if count = 0 then none else some (2 * count)) interval])

/-- The toggles left (R183), one delay and one toggle at a time. -/
def blinkActions (left : Option Nat) (interval : Nat) : List Micro :=
  match left with
  | none => [event (.delayUs interval), .toggle, .blink none interval]
  | some 0 => []
  | some (n + 1) => [event (.delayUs interval), .toggle, .blink (some n) interval]

/-- The other switch value (R183). -/
def toggled : Switch → Switch
  | .on => .off
  | .off => .on

end Sys2Proof.Machine
end

