-- ==== Sys2Proof/Machine/Sequencer.lean ====
section
/-! DEFINITION. The sequencer (R29, R30): the start of every operation of R71, and one action of the operation in
progress. -/

namespace Sys2Proof.Machine

/-- The start of an operation: checks, assignments and the actions left (R130). -/
def startOp (o : Op) (s : State) : Start :=
  match o with
  | .encode i => startEncode i s
  | .send c => startSend c s
  | .delayThenSend c t => startDelayThenSend c t s
  | .waitUntilIdleThenSend c => startWaitUntilIdleThenSend c s
  | .isBusy => startIsBusy s
  | .getBacklight => startGetBacklight s
  | .setBacklight v => startSetBacklight v s
  | .get f => startGet f s
  | .calculatePosByOffset pos dx dy => startCalculatePosByOffset pos dx dy s
  | .setCursorPos pos => startSetCursorPos pos s
  | .setCgramAddr a => startSetCgramAddr a s
  | .shiftCursorOrDisplay shift dir => startShiftCursorOrDisplay shift dir s
  | .setLineMode m => startSetLineMode m s
  | .setFont f => startSetFont f s
  | .setDisplayOn v => startSetDisplayOn v s
  | .setDirection d => startSetDirection d s
  | .setCursorOn v => startSetCursorOn v s
  | .setCursorBlink v => startSetCursorBlink v s
  | .setShiftType t => startSetShiftType t s
  | .init => startInit s
  | .clearDisplay => startClearDisplay s
  | .returnHome => startReturnHome s
  | .writeU8ToCur b => startWriteU8ToCur b s
  | .readU8FromCur => startReadU8FromCur s
  | .writeCharToCur ch => startWriteCharToCur ch s
  | .writeGraphToCgram index rows => startWriteGraphToCgram index rows s
  | .readByteFromPos pos => startReadByteFromPos pos s
  | .writeByteToPos pos b => startWriteByteToPos pos b s
  | .typewriter text d => startTypewriter text d s
  | .splitFlapSequential text m f c => startSplitFlapSequential text m f c s
  | .splitFlapSimultaneous text m f => startSplitFlapSimultaneous text m f s
  | .shiftDisplayToPos t st v d => startShiftDisplayToPos t st v d s
  | .fullDisplayBlink count interval => startFullDisplayBlink count interval s

/-- An operation begun inside the one in progress, or requested by the host: its fatal error, with the state as it was
at its start (R191), or its assignments, with its actions put before those left. -/
def State.begin (s : State) (o : Op) : State :=
  match startOp o s with
  | .error e => s.raise e
  | .ok (s', ms) => s'.push ms

/-- The poll loop's test (R117): idle, and the Command is sent; busy, and another poll follows a sleep of
`poll_interval`. There is no bound on the polls (R217). -/
def pollActions (s : State) (c : Command) : List Micro :=
  if busyFlag s.sent then [event (.delayUs s.pollInterval), .waitIdle c] else [.send c]

/-- One action of the operation in progress, which has been taken off the sequencer. -/
def State.micro (s : State) (m : Micro) : State :=
  match m with
  | .wire w => s.wire w
  | .send c =>
    match wiresOf s c with
    | .error e => s.raise e
    | .ok ws => { s with rx := [] }.push (ws.map .wire)
  | .waitIdle c => s.push [.send encodeReadBusyFlagAndAddress, .pollTest c]
  | .pollTest c => s.push (pollActions s c)
  | .call o => s.begin o
  | .stage st => { s with seq := s.seq.enter st }
  | .home => { s with S := s.S.homed }
  | .stepCursor => { s with S := { s.S with cursorPos := stepPos s.S.lineMode s.S.cursorPos s.S.direction } }
  | .pushBacklight => s.begin (.setBacklight s.S.backlight)
  | .flips target maxFlipCount perFlip => s.push (flipActions s.S.cursorPos target maxFlipCount perFlip)
  | .toggle => s.begin (.setDisplayOn (toggled s.S.displayOn))
  | .blink left interval => s.push (blinkActions left interval)
  | .returnSent => { s with result := resultOfSent s.sent }
  | .returnBusy => { s with result := .bool (busyFlag s.sent) }

end Sys2Proof.Machine
end

