-- ==== Sys2Proof/Machine/Step.lean ====
section
/-! DEFINITION. One step of the block. Idle, it takes the host's next request (R29, R30): a wire word that names an
instruction is that instruction, run whole; a word that names none is the raw Command it stands for, delivered
unchanged (R67); an operation is begun. Busy, it does one action of the operation in progress. -/

namespace Sys2Proof.Machine

/-- A request taken by an idle block. -/
def State.take (s : State) (r : Request) : Host.Outcome State Fault Refusal :=
  match r with
  | .word w =>
    match decode w with
    | .ok i => exec i s
    | .error _ => deliver (.ok w.command) s
  | .op o => .next (({ s with seq := Seq.start, result := .nothing }.begin o).settle)

/-- One step. A halted block has none (R28); an idle block with no request stays as it is. -/
def step (s : State) : Host.Outcome State Fault Refusal :=
  match s.fatal with
  | some e => .fault (.halted e)
  | none =>
    match s.seq with
    | .idle =>
      match s.requests with
      | [] => .next s
      | r :: rs => { s with requests := rs }.take r
    | .running _ _ [] => .next { s with seq := .idle }
    | .running n st (m :: ms) => .next (({ s with seq := .running n st ms }.micro m).settle)

/-- The state with a table word put before the requests the host has presented, and the sequencer idle, so that the
next step takes it (log entry 4). A halted block still takes nothing (R28). -/
def State.withFetchWord (s : State) (nbits w : Nat) : State :=
  { s with requests := .word (WireWord.ofTable nbits w) :: s.requests, seq := .idle }

end Sys2Proof.Machine
end

