-- ==== Sys2Proof/Machine/Controller.lean ====
section
/-! DEFINITION. The controller the shadow assumes (R59, R50, R40, R42). The display controller is the block's environment and
no part of its state (R3, R32); this file only writes down what the source claims of it, "so a paired controller model
can be held to it". No step reads it: the answers to reads stay free (R57). What these rules say nothing about is `none`. -/

namespace Sys2Proof.Machine

/-- What the source assumes the controller holds (R32): the line mode, direction and entry-mode shift bit it was last set
to, the RAM its data register reaches, its address counter, an address of that RAM, and the display shift; each none where
nothing is assumed. -/
structure AssumedController where
  lineMode : Option LineMode
  direction : Option Direction
  shift : Option ShiftType
  ram : Option RamType
  ac : Option Nat
  offset : Option Nat
  deriving DecidableEq, Repr

/-- Nothing is assumed: after a Command that names no instruction (U5), and after what the block never sees, a power loss
or reset of the controller or another agent on its lines (R233, U1, U4). -/
def AssumedController.unknown : AssumedController :=
  { lineMode := none, direction := none, shift := none, ram := none, ac := none, offset := none }

/-- The position of a DDRAM address, if it has one (R43, R44). -/
def posOfAddr (m : LineMode) (a : Nat) : Option Pos :=
  match m with
  | .oneLine => if a < 80 then some { col := a, row := 0 } else none
  | .twoLine =>
    if a < 40 then some { col := a, row := 0 }
    else if 0x40 ≤ a ∧ a < 0x40 + 40 then some { col := a - 0x40, row := 1 }
    else none

/-- The address counter one position on (R59); nothing is assumed in CGRAM space, which has no positions (U3), or at an
address of no position (U6). -/
def AssumedController.moved (k : AssumedController) (d : Option Direction) : Option Nat :=
  match k.lineMode, k.ram, k.ac, d with
  | some m, some .ddram, some a, some d => (posOfAddr m a).map fun p => ddramAddr m (stepPos m p d)
  | _, _, _, _ => none

/-- The CGRAM address after a data transfer: one up or down as the direction says, wrapping in the 6-bit space (R42, R45). -/
def cgramStep (a : Nat) : Direction → Nat
  | .leftToRight => (a + 1) % 64
  | .rightToLeft => (a + 63) % 64

/-- The address counter after a data transfer, in either RAM (R42, R59). -/
def AssumedController.acAfterTransfer (k : AssumedController) : Option Nat :=
  match k.ram, k.ac, k.direction with
  | some .cgram, some a, some d => some (cgramStep a d)
  | _, _, _ => k.moved k.direction

/-- The display shift after a data transfer: what it was while the entry-mode shift bit is clear; with the bit set the
controller shifts its display by itself, which no rule of the spec gives, so nothing is assumed of it (R233, D24, U4,
N20, G8; log entry 13). -/
def AssumedController.offsetAfterTransfer (k : AssumedController) : Option Nat :=
  match k.shift with
  | some .cursorOnly => k.offset
  | _ => none

/-- The direction after Clear display: left-to-right where `P_CLEAR_SETS_LTR` says so (R155); otherwise the spec leaves
open whether it is kept or set to left-to-right (D21, R233, U4), and both are the same only for left-to-right. -/
def AssumedController.directionAfterClear (p : Params) (k : AssumedController) : Option Direction :=
  if p.clearSetsLtr ∨ k.direction = some .leftToRight then some .leftToRight else none

/-- The display shift one step on, modulo the line capacity (R59, R136). -/
def AssumedController.offsetAfterShift (p : Params) (k : AssumedController) (d : Direction) : Option Nat :=
  match k.lineMode, k.offset with
  | some m, some o => some (shiftOffset p.offsetStepLtr m o d)
  | _, _ => none

/-- The controller after a data transfer (R42, R59). -/
def AssumedController.afterTransfer (k : AssumedController) : AssumedController :=
  { k with ac := k.acAfterTransfer, offset := k.offsetAfterTransfer }

/-- What the controller is assumed to do on one instruction (R59, R50). DESIGN CHOICE (log entry 23): it takes every
instruction at once, as sent, so also a Function set sent after initialisation, whose line mode is its own from then on
with the address counter and the display shift kept; whether a controller accepts one the spec leaves open (U7, N26,
R234), as it does an instruction sent while the controller is busy (U2). After the half function set nothing is assumed of the
line mode: the controller may see a whole Function set in it (R69), and no rule says with which L bit (log entry 13). -/
def AssumedController.take (p : Params) (k : AssumedController) : Instr → AssumedController
  | .clearDisplay =>
    { k with ram := some .ddram, ac := some 0, offset := some 0, direction := k.directionAfterClear p }
  | .returnHome => { k with ram := some .ddram, ac := some 0, offset := some 0 }
  | .entryModeSet dir shift => { k with direction := some dir, shift := some shift }
  | .displayOnOff _ _ _ => k
  | .cursorOrDisplayShift .cursorOnly dir => { k with ac := k.moved (some dir) }
  | .cursorOrDisplayShift .cursorAndDisplay dir => { k with offset := k.offsetAfterShift p dir }
  | .halfFunctionSet => { k with lineMode := none }
  | .functionSet _ line _ => { k with lineMode := some line }
  | .setCGRAM addr => { k with ram := some .cgram, ac := some addr }
  | .setDDRAM addr => { k with ram := some .ddram, ac := some addr }
  | .readBusyFlagAndAddress => k
  | .writeDataToRAM _ => k.afterTransfer
  | .readDataFromRAM => k.afterTransfer

/-- The wire word of a Command (R62). -/
def wordOfCommand (c : Command) : WireWord :=
  match c.data with
  | .none => .wide (c.rs.bit ++ c.rw.bit ++ 0#8)
  | .bit8 b => .wide (c.rs.bit ++ c.rw.bit ++ b)
  | .bit4 n => .short (c.rs.bit ++ c.rw.bit ++ n)

/-- The controller after the Commands it was sent; one that names no instruction leaves nothing assumed (U5). -/
def AssumedController.takeAll (p : Params) : List Command → AssumedController → AssumedController
  | [], k => k
  | c :: cs, k =>
    match decode (wordOfCommand c) with
    | .ok i => AssumedController.takeAll p cs (k.take p i)
    | .error _ => AssumedController.takeAll p cs .unknown

/-- Lockstep (R24, R56): the shadow says where the controller is. In CGRAM space nothing is said of the address
counter (R19, D23). -/
def Lockstep (S : DisplayState) (k : AssumedController) : Prop :=
  k.lineMode = some S.lineMode ∧ k.direction = some S.direction ∧ k.shift = some S.shiftType
    ∧ k.ram = some S.ramType ∧ k.offset = some S.displayOffset
    ∧ (S.ramType = .ddram → k.ac = some (ddramAddr S.lineMode S.cursorPos))

end Sys2Proof.Machine
end

