-- ==== Sys2Proof/Safety.lean ====
section
/-! DEFINITION. What the spec promises of every instant of a run: the bounds and the font/line invariant (R13, R131),
the enable line at rest (R108), the bridge's protocol (R109, R110), and an endless blink (R183, R217). -/

namespace Sys2Proof.Machine

/-- The invariants "held at every instant the block is not halted": the font/line invariant (R13), the cursor within
its bounds and the window offset below the line capacity (R131). -/
abbrev State.ShadowOk (s : State) : Prop :=
  s.fatal = none → fontLineOk s.S.lineMode s.S.font = true ∧ positionsWithin s.S.lineMode s.S = true

/-- Whether a level of the enable line is not High. -/
def enableAtRest (d : Drive) : Bool := d ≠ .driven .high

/-- Whether the actions left return the enable line to rest before every action that is not a wire element, and at
their end, starting from a level of the line. -/
def strobesClosed : Drive → List Micro → Bool
  | d, [] => enableAtRest d
  | _, .wire (.call (.pinSet .en v)) :: ms => strobesClosed (.driven v) ms
  | d, .wire _ :: ms => strobesClosed d ms
  | d, _ :: ms => enableAtRest d && strobesClosed d ms

/-- "Between two `send`s `EN` is `Low`" or not yet driven (R108), in a block that is not halted: at rest when idle, and
returned to rest by every wire sequence in progress. -/
abbrev State.EnableOk (s : State) : Prop :=
  s.fatal = none →
    match s.seq with
    | .idle => enableAtRest s.X.level.en = true
    | .running _ _ rest => strobesClosed s.X.level.en rest = true

/-! ## The bridge's protocol (R109, R110) -/

/-- Whether the wire elements among some actions are events only: no `send` is in progress in them. -/
def eventsOnly : List Micro → Bool
  | [] => true
  | .wire (.call _) :: ms => eventsOnly ms
  | .wire .sentFirst :: _ => false
  | .wire (.ret _ _) :: _ => false
  | _ :: ms => eventsOnly ms

/-- Whether the `send` in progress, if there is one, and the actions after it keep the protocol, given whether
`X.first_command_sent` is set and whether a Command has been delivered: the Command passed both checks of the bridge, and
outside a `send` the two agree (R110). -/
def protocolPending : Bool → Bool → List Micro → Bool
  | sent, any, [] => sent == any
  | sent, any, .wire (.call _) :: ms => protocolPending sent any ms
  | _, any, .wire .sentFirst :: ms => protocolPending true any ms
  | sent, any, .wire (.ret c _) :: ms =>
    sent && !isEightBitRequest c && (any || decide (c = bootstrap)) && protocolPending sent true ms
  | sent, any, _ :: ms => (sent == any) && eventsOnly ms

/-- The bridge's protocol: nothing is delivered before `X.first_command_sent` is set, the first Command delivered is the
bootstrap (R110), no Function set with `W = 1` has been delivered (R109), and what is in progress keeps it so. -/
abbrev State.BridgeOk (s : State) : Prop :=
  s.params.transport = .i2cBridge →
    (s.X.firstCommandSent = false → s.delivered = [])
      ∧ (s.delivered = [] ∨ s.delivered.head? = some bootstrap)
      ∧ (∀ c ∈ s.delivered, isEightBitRequest c = false)
      ∧ (s.fatal = none →
          match s.seq with
          | .idle => (s.X.firstCommandSent == !s.delivered.isEmpty) = true
          | .running _ _ rest => protocolPending s.X.firstCommandSent (!s.delivered.isEmpty) rest = true)

/-! ## Endless blink (R183, R217) -/

/-- A block in an endless blink, not halted: whatever it has still to do before, the last of its actions is the endless
blink itself. -/
def State.Blinks (s : State) (interval : Nat) : Prop :=
  s.fatal = none → ∃ n st before, s.seq = .running n st (before ++ [.blink none interval])

end Sys2Proof.Machine
end

