-- ==== Sys2Proof/Certificates/Slice0/Obligations.lean ====
section
/-! DEFINITION. The statements for the provers, each `def Obligations.<Name> : Prop`, and the words they are stated in
(namespace Sys2Proof.Claim). The byte tables and the event lists here are written out from the spec's rules and test
vectors, not taken from the model's encoder or transport; only the timelines take the calls of one `send` from the model's
wire sequence, which the statements of the whole sends fix. A rule of the spec that ends in a decision D<n> is the spec's own
choice, which the model follows (log entry 12; the titles in OBLIGATIONS.json name the decisions a statement rests on). -/

namespace Sys2Proof.Claim

open Sys2Proof.Machine

/-! ## The environment -/

/-- The environment fails none of the next `n` events. -/
def Allows (n : Nat) (e : Env) : Prop := ∀ k, e.failIn = some k → n ≤ k

/-- The failure to come, after `n` events have succeeded. -/
def failAfter (n : Nat) (e : Env) : Option Nat := e.failIn.map (· - n)

/-- The next `n` levels the environment answers, free values among them. -/
def drawLevels : Nat → Env → List Level
  | 0, _ => []
  | n + 1, e => e.nextLevel :: drawLevels n e.afterLevel

/-- The next `n` bytes the environment answers, free values among them. -/
def drawBytes : Nat → Env → List Byte
  | 0, _ => []
  | n + 1, e => e.nextByte :: drawBytes n e.afterByte

/-! ## Events -/

/-- The level of bit `j` of a byte: 1 is High (R102). -/
def lv (b : Byte) (j : Nat) : Level := if b.getLsbD j then .high else .low

/-- 1 for High, 0 for Low (R103). -/
def val : Level → Nat
  | .high => 1
  | .low => 0

/-- `pin_set(l, v)` has happened. -/
def drove (l : Line) (v : Level) : Event := { call := .pinSet l v, answer := .done }

/-- `pin_get(DL[j])` has answered `v`. -/
def sampled (j : Fin 8) (v : Level) : Event := { call := .pinGet (.dl j), answer := .level v }

/-- `i2c_write(a, [b])` has happened. -/
def wrote (a : Nat) (b : Byte) : Event := { call := .i2cWrite a [b], answer := .done }

/-- `i2c_write_read(a, [b], 1)` has answered `[r]`. -/
def readBack (a : Nat) (b r : Byte) : Event := { call := .i2cWriteRead a [b] 1, answer := .bytes [r] }

/-! ## Instruction bytes -/

/-- The register select and the payload byte of every instruction with an 8-bit payload, as 95_test_vectors.md V2 and
the rules R81 to R91 list them; none for the half function set, the two reads and an address out of range. -/
def payload : Instr → Option (RegSel × Byte)
  | .clearDisplay => some (.command, 0x01)
  | .returnHome => some (.command, 0x02)
  | .entryModeSet .rightToLeft .cursorOnly => some (.command, 0x04)
  | .entryModeSet .rightToLeft .cursorAndDisplay => some (.command, 0x05)
  | .entryModeSet .leftToRight .cursorOnly => some (.command, 0x06)
  | .entryModeSet .leftToRight .cursorAndDisplay => some (.command, 0x07)
  | .displayOnOff .off .off .off => some (.command, 0x08)
  | .displayOnOff .off .off .on => some (.command, 0x09)
  | .displayOnOff .off .on .off => some (.command, 0x0A)
  | .displayOnOff .off .on .on => some (.command, 0x0B)
  | .displayOnOff .on .off .off => some (.command, 0x0C)
  | .displayOnOff .on .off .on => some (.command, 0x0D)
  | .displayOnOff .on .on .off => some (.command, 0x0E)
  | .displayOnOff .on .on .on => some (.command, 0x0F)
  | .cursorOrDisplayShift .cursorOnly .rightToLeft => some (.command, 0x10)
  | .cursorOrDisplayShift .cursorOnly .leftToRight => some (.command, 0x14)
  | .cursorOrDisplayShift .cursorAndDisplay .rightToLeft => some (.command, 0x18)
  | .cursorOrDisplayShift .cursorAndDisplay .leftToRight => some (.command, 0x1C)
  | .functionSet .bit4 .oneLine .font5x8 => some (.command, 0x20)
  | .functionSet .bit4 .oneLine .font5x11 => some (.command, 0x24)
  | .functionSet .bit4 .twoLine .font5x8 => some (.command, 0x28)
  | .functionSet .bit4 .twoLine .font5x11 => some (.command, 0x2C)
  | .functionSet .bit8 .oneLine .font5x8 => some (.command, 0x30)
  | .functionSet .bit8 .oneLine .font5x11 => some (.command, 0x34)
  | .functionSet .bit8 .twoLine .font5x8 => some (.command, 0x38)
  | .functionSet .bit8 .twoLine .font5x11 => some (.command, 0x3C)
  | .setCGRAM addr => if addr < 64 then some (.command, BitVec.ofNat 8 (0x40 + addr)) else none
  | .setDDRAM addr => if addr < 128 then some (.command, BitVec.ofNat 8 (0x80 + addr)) else none
  | .writeDataToRAM byte => some (.data, byte)
  | .halfFunctionSet => none
  | .readBusyFlagAndAddress => none
  | .readDataFromRAM => none

/-- The register the two reads read, none for the other instructions (R90, R92). -/
def readFrom : Instr → Option RegSel
  | .readBusyFlagAndAddress => some .command
  | .readDataFromRAM => some .data
  | _ => none

/-- The level of `RS` (R101). -/
def rsLv : RegSel → Level
  | .command => .low
  | .data => .high

/-- The RS bit in the latch byte (R62, R68). -/
def rsBit : RegSel → BitVec 1
  | .command => 0#1
  | .data => 1#1

/-- The backlight bit in the latch byte (R68). -/
def blBit : Switch → BitVec 1
  | .on => 1#1
  | .off => 0#1

/-- The level of the backlight line (R120). -/
def blLv : Switch → Level
  | .on => .high
  | .off => .low

/-- A write Command with an 8-bit payload. -/
def writeCommand (rs : RegSel) (b : Byte) : Command := { rs := rs, rw := .write, data := .bit8 b }

/-- An instruction write with an 8-bit payload. -/
def instruction (b : Byte) : Command := writeCommand .command b

/-- A data write. -/
def dataWrite (b : Byte) : Command := writeCommand .data b

/-- The half function set's Command. -/
def halfCommand : Command := { rs := .command, rw := .write, data := .bit4 0b0010 }

/-- A read Command. -/
def readCommand (rs : RegSel) : Command := { rs := rs, rw := .read, data := .none }

/-! ## Whole sends -/

/-- The lines after a nibble has been put on four data lines and strobed (R103). -/
def linesOfNibble (lines : Levels) (b : Byte) (lsb : Nat) : Levels :=
  { lines with
    en := .driven .low
    dl := (((lines.dl.set 0 (.driven (lv b lsb))).set 1 (.driven (lv b (lsb + 1)))).set 2
      (.driven (lv b (lsb + 2)))).set 3 (.driven (lv b (lsb + 3))) }

/-- Four data lines, ascending, then the strobe (R103). -/
def nibbleEvents (b : Byte) (lsb : Nat) : List Event :=
  [drove (.dl 0) (lv b lsb), drove (.dl 1) (lv b (lsb + 1)), drove (.dl 2) (lv b (lsb + 2)),
    drove (.dl 3) (lv b (lsb + 3)), drove .en .high, drove .en .low]

/-- The state after a byte has been sent on four lines (R104): 14 events, the high nibble first. -/
def afterFourBitByte (s : State) (rs : RegSel) (b : Byte) : State :=
  { s with
    X := { s.X with
      level := linesOfNibble (linesOfNibble { s.X.level with rs := .driven (rsLv rs), rw := .driven .low } b 4) b 0 }
    rx := []
    sent := none
    result := .nothing
    env := { s.env with failIn := failAfter 14 s.env }
    trace := s.trace ++ [drove .rs (rsLv rs), drove .rw .low] ++ nibbleEvents b 4 ++ nibbleEvents b 0
    delivered := s.delivered ++ [writeCommand rs b] }

/-- The state after the half function set on four lines (R104): 8 events. -/
def afterFourBitHalf (s : State) : State :=
  { s with
    X := { s.X with level := linesOfNibble { s.X.level with rs := .driven .low, rw := .driven .low } 0x02 0 }
    rx := []
    sent := none
    result := .nothing
    env := { s.env with failIn := failAfter 8 s.env }
    trace := s.trace ++ [drove .rs .low, drove .rw .low] ++ nibbleEvents 0x02 0
    delivered := s.delivered ++ [halfCommand] }

/-- Release, enable high, the four samples, enable low (R103). -/
def readNibbleEvents (l0 l1 l2 l3 : Level) : List Event :=
  [drove (.dl 0) .high, drove (.dl 1) .high, drove (.dl 2) .high, drove (.dl 3) .high, drove .en .high,
    sampled 0 l0, sampled 1 l1, sampled 2 l2, sampled 3 l3, drove .en .low]

/-- The state after a read on four lines (R106): 22 events, the first nibble the high one. -/
def afterFourBitRead (s : State) (rs : RegSel) (h0 h1 h2 h3 l0 l1 l2 l3 : Level) : State :=
  let b : Byte := BitVec.ofNat 8 (128 * val h3 + 64 * val h2 + 32 * val h1 + 16 * val h0
    + 8 * val l3 + 4 * val l2 + 2 * val l1 + val l0)
  { s with
    X := { s.X with
      level := linesOfNibble { s.X.level with rs := .driven (rsLv rs), rw := .driven .high } 0x0F 0 }
    rx := [h0, h1, h2, h3, l0, l1, l2, l3]
    sent := some b
    result := .byte b
    env := { s.env with failIn := failAfter 22 s.env, levels := s.env.levels.drop 8, draws := s.env.draws + 8 }
    trace := s.trace ++ [drove .rs (rsLv rs), drove .rw .high] ++ readNibbleEvents h0 h1 h2 h3
      ++ readNibbleEvents l0 l1 l2 l3
    delivered := s.delivered ++ [readCommand rs] }

/-- Eight data lines holding a byte. -/
def eightLines (b : Byte) : Vector Drive 8 :=
  #v[.driven (lv b 0), .driven (lv b 1), .driven (lv b 2), .driven (lv b 3), .driven (lv b 4), .driven (lv b 5),
    .driven (lv b 6), .driven (lv b 7)]

/-- Eight data lines driven ascending. -/
def putEvents (b : Byte) : List Event :=
  [drove (.dl 0) (lv b 0), drove (.dl 1) (lv b 1), drove (.dl 2) (lv b 2), drove (.dl 3) (lv b 3),
    drove (.dl 4) (lv b 4), drove (.dl 5) (lv b 5), drove (.dl 6) (lv b 6), drove (.dl 7) (lv b 7)]

/-- The state after a byte has been sent on eight lines (R105): 12 events, one strobe. -/
def afterEightBitByte (s : State) (rs : RegSel) (b : Byte) : State :=
  { s with
    X := { s.X with
      level :=
        { s.X.level with rs := .driven (rsLv rs), rw := .driven .low, en := .driven .low, dl := eightLines b } }
    rx := []
    sent := none
    result := .nothing
    env := { s.env with failIn := failAfter 12 s.env }
    trace := s.trace ++ [drove .rs (rsLv rs), drove .rw .low] ++ putEvents b ++ [drove .en .high, drove .en .low]
    delivered := s.delivered ++ [writeCommand rs b] }

/-- The state after a read on eight lines (R107): 20 events. -/
def afterEightBitRead (s : State) (rs : RegSel) (l0 l1 l2 l3 l4 l5 l6 l7 : Level) : State :=
  let b : Byte := BitVec.ofNat 8 (val l0 + 2 * val l1 + 4 * val l2 + 8 * val l3 + 16 * val l4 + 32 * val l5
    + 64 * val l6 + 128 * val l7)
  { s with
    X := { s.X with
      level :=
        { s.X.level with rs := .driven (rsLv rs), rw := .driven .high, en := .driven .low, dl := eightLines 0xFF } }
    rx := [l0, l1, l2, l3, l4, l5, l6, l7]
    sent := some b
    result := .byte b
    env := { s.env with failIn := failAfter 20 s.env, levels := s.env.levels.drop 8, draws := s.env.draws + 8 }
    trace := s.trace ++ [drove .rs (rsLv rs), drove .rw .high] ++ putEvents 0xFF ++ [drove .en .high]
      ++ [sampled 0 l0, sampled 1 l1, sampled 2 l2, sampled 3 l3, sampled 4 l4, sampled 5 l5, sampled 6 l6,
        sampled 7 l7] ++ [drove .en .low]
    delivered := s.delivered ++ [readCommand rs] }

/-- One byte of a transfer over the bridge (R68, R111). -/
def bridge (s : State) (rs : RegSel) (rw en : BitVec 1) (n : Nibble) : Byte :=
  latchByte s.params.latch (rsBit rs) rw en (blBit s.X.backlight) n

/-- The three writes of a nibble (R111): enable low, high, low. -/
def bridgeNibbleEvents (s : State) (rs : RegSel) (n : Nibble) : List Event :=
  [wrote s.X.addr (bridge s rs 0 0 n), wrote s.X.addr (bridge s rs 0 1 n), wrote s.X.addr (bridge s rs 0 0 n)]

/-- The state after a byte has been sent over the bridge (R112): 6 transactions. -/
def afterBridgeByte (s : State) (rs : RegSel) (b : Byte) : State :=
  { s with
    X := { s.X with firstCommandSent := true }
    rx := []
    sent := none
    result := .nothing
    env := { s.env with failIn := failAfter 6 s.env }
    trace := s.trace ++ bridgeNibbleEvents s rs (b.extractLsb' 4 4) ++ bridgeNibbleEvents s rs (b.extractLsb' 0 4)
    delivered := s.delivered ++ [writeCommand rs b] }

/-- The state after the half function set over the bridge (R112): 3 transactions. -/
def afterBridgeHalf (s : State) : State :=
  { s with
    X := { s.X with firstCommandSent := true }
    rx := []
    sent := none
    result := .nothing
    env := { s.env with failIn := failAfter 3 s.env }
    trace := s.trace ++ bridgeNibbleEvents s .command 0b0010
    delivered := s.delivered ++ [halfCommand] }

/-- One probe cycle of a read over the bridge, answered `r` (R113). -/
def probeEvents (s : State) (rs : RegSel) (r : Byte) : List Event :=
  [wrote s.X.addr (bridge s rs 1 0 0b1111), readBack s.X.addr (bridge s rs 1 1 0b1111) r,
    wrote s.X.addr (bridge s rs 1 0 0b1111)]

/-- The state after a read over the bridge whose two probes are answered `h` and `l` (R113): 6 transactions. -/
def afterBridgeRead (s : State) (rs : RegSel) (h l : Byte) : State :=
  let lsb := s.params.latch.dataLsb
  let b : Byte := (((h >>> lsb) &&& 0x0F) <<< 4) ||| ((l >>> lsb) &&& 0x0F)
  { s with
    X := { s.X with firstCommandSent := true }
    rx := [lv (h >>> lsb) 0, lv (h >>> lsb) 1, lv (h >>> lsb) 2, lv (h >>> lsb) 3,
      lv (l >>> lsb) 0, lv (l >>> lsb) 1, lv (l >>> lsb) 2, lv (l >>> lsb) 3]
    sent := some b
    result := .byte b
    env := { s.env with failIn := failAfter 6 s.env, bytes := s.env.bytes.drop 2, draws := s.env.draws + 2 }
    trace := s.trace ++ probeEvents s rs h ++ probeEvents s rs l
    delivered := s.delivered ++ [readCommand rs] }

/-- The interface events of a wire sequence, in order. -/
def callsOf : List Wire → List Call
  | [] => []
  | .call c :: ws => c :: callsOf ws
  | .sentFirst :: ws => callsOf ws
  | .ret _ _ :: ws => callsOf ws

/-- The lines after a list of events: `pin_set` drives its line, the others drive none. -/
def linesAfter : List Call → Levels → Levels
  | [], lines => lines
  | .pinSet l v :: cs, lines => linesAfter cs (lines.set v l)
  | .pinGet _ :: cs, lines => linesAfter cs lines
  | .i2cWrite _ _ :: cs, lines => linesAfter cs lines
  | .i2cWriteRead _ _ _ :: cs, lines => linesAfter cs lines
  | .delayUs _ :: cs, lines => linesAfter cs lines
  | .delayMs _ :: cs, lines => linesAfter cs lines

/-! ## Requests and runs -/

/-- The block is idle and running, and the host has presented this operation first. -/
def Asked (s : State) (o : Op) (rs : List Request) : Prop :=
  s.fatal = none ∧ s.seq = .idle ∧ s.requests = .op o :: rs

/-- The state one step after a request: its assignments to `S` made, its actions to come. -/
def begun (s : State) (rs : List Request) (S : DisplayState) (actions : List Micro) : State :=
  { s with requests := rs, result := .nothing, S := S, seq := .running 0 none actions }

/-- The state one step after a request that fails a check: nothing assigned, halted. -/
def refusedWith (s : State) (rs : List Request) (e : FatalError) : State :=
  { s with requests := rs, result := .nothing, seq := .running 0 none [], fatal := some e }

/-- The state one step after a request that returns a value at once. -/
def returned (s : State) (rs : List Request) (r : Result) : State := { s with requests := rs, result := r }

/-- `k` steps lead from `s` to `t`. -/
def Runs (k : Nat) (s t : State) : Prop := Host.Core.run Sys2Proof.core k s = .next t

/-- `s` runs, with only this operation asked for, until the block is idle again at `t`. -/
def RunsToIdle (s t : State) : Prop := ∃ k, Runs (k + 1) s t ∧ t.seq = .idle

/-- Some environment lets the run end. -/
def CanComplete (s : State) : Prop := ∃ e t, RunsToIdle { s with env := e } t

/-- A busy-flag read. -/
def busyRead : Command := readCommand .command

/-- The environment answers busy to the next `n` busy-flag reads, whatever else it answers: bit 7 is bit 3 of the first
nibble on four lines (R106, R118) and over the bridge, bootstrapped (R110, R113), and `DL[7]` on eight lines (R107). -/
def AnswersBusy (s : State) (n : Nat) : Prop :=
  match s.params.transport with
  | .parallelFourBit => ∀ j < n, s.env.levels[8 * j + 3]? = some .high
  | .parallelEightBit => ∀ j < n, s.env.levels[8 * j + 7]? = some .high
  | .i2cBridge =>
    s.X.firstCommandSent = true
      ∧ ∀ j < n, ∃ b, s.env.bytes[2 * j]? = some b ∧ (b >>> s.params.latch.dataLsb).getLsbD 3 = true

/-- The Commands that have none of the four shapes of R61: a write with no payload, a read with one, a nibble for the data
register. -/
def Malformed (c : Command) : Prop :=
  (c.rw = .write ∧ c.data = .none) ∨ (c.rw = .read ∧ c.data ≠ .none) ∨ (c.rs = .data ∧ ∃ n, c.data = .bit4 n)

/-- The Commands delivered between two states, busy-flag reads left out. -/
def sentBetween (s t : State) : List Command :=
  (t.delivered.drop s.delivered.length).filter fun c => !decide (c = busyRead)

/-- No Command of a façade operation is refused by the transport: over the bridge, the bootstrap is done and the width
is 4-bit (R109, R110). -/
def CanSend (s : State) : Prop :=
  s.params.transport = .i2cBridge → s.X.firstCommandSent = true ∧ s.S.dataWidth = .bit4

/-- The Function set byte of the shadow (R132). -/
def functionSetByte (S : DisplayState) : Byte :=
  0x20 ||| (if S.dataWidth = .bit8 then 0x10 else 0) ||| (if S.lineMode = .twoLine then 0x08 else 0)
    ||| (if S.font = .font5x11 then 0x04 else 0)

/-- The Display on/off byte of the shadow (R132). -/
def displayControlByte (S : DisplayState) : Byte :=
  0x08 ||| (if S.displayOn = .on then 0x04 else 0) ||| (if S.cursorOn = .on then 0x02 else 0)
    ||| (if S.cursorBlink = .on then 0x01 else 0)

/-- The Entry mode set byte of the shadow (R132). -/
def entryModeByte (S : DisplayState) : Byte :=
  0x04 ||| (if S.direction = .leftToRight then 0x02 else 0) ||| (if S.shiftType = .cursorAndDisplay then 0x01 else 0)

/-- The Cursor/display shift byte (R85). -/
def shiftByte (shift : ShiftType) (dir : Direction) : Byte :=
  0x10 ||| (if shift = .cursorAndDisplay then 0x08 else 0) ||| (if dir = .leftToRight then 0x04 else 0)

/-- The Set DDRAM address byte of a position: the address is `col` in one-line mode and `col + 0x40 * row` in two-line
mode (R44). -/
def setDdramByte (m : LineMode) (p : Pos) : Byte :=
  match m with
  | .oneLine => BitVec.ofNat 8 (0x80 + p.col)
  | .twoLine => BitVec.ofNat 8 (0x80 + p.col + 0x40 * p.row)

/-- The operations that send one state-changing instruction each. -/
def oneInstruction : Op → Bool
  | .setCursorPos _ => true
  | .setCgramAddr _ => true
  | .shiftCursorOrDisplay _ _ => true
  | .setLineMode _ => true
  | .setFont _ => true
  | .setDisplayOn _ => true
  | .setDirection _ => true
  | .setCursorOn _ => true
  | .setCursorBlink _ => true
  | .setShiftType _ => true
  | .clearDisplay => true
  | .returnHome => true
  | .writeU8ToCur _ => true
  | .readU8FromCur => true
  | .writeCharToCur _ => true
  | _ => false

/-- The preconditions of those operations (R138, R139, R141, R142, R154, R157, R159). -/
def allowed (s : State) : Op → Bool
  | .setCursorPos p => inBounds s.S.lineMode p
  | .setCgramAddr a => decide (a < 64)
  | .setLineMode m => fontLineOk m s.S.font && positionsWithin m s.S
  | .setFont f => fontLineOk s.S.lineMode f
  | .writeU8ToCur _ => decide (s.S.ramType = .ddram)
  | .readU8FromCur => decide (s.S.ramType = .ddram)
  | .writeCharToCur _ => decide (s.S.ramType = .ddram)
  | _ => true

/-- The premises the spec asks of a lockstep claim: the entry-mode shift bit clear for a data transfer (D24, N20, G8), and
for Clear display a direction that it cannot change unseen (U4, D21). -/
def lockstepPremise (s : State) : Op → Bool
  | .writeU8ToCur _ => decide (s.S.shiftType = .cursorOnly)
  | .readU8FromCur => decide (s.S.shiftType = .cursorOnly)
  | .writeCharToCur _ => decide (s.S.shiftType = .cursorOnly)
  | .clearDisplay => s.params.clearSetsLtr || decide (s.S.direction = .leftToRight)
  | _ => true

/-- The data transfers at the cursor. -/
def isTransfer : Op → Bool
  | .writeU8ToCur _ => true
  | .readU8FromCur => true
  | .writeCharToCur _ => true
  | _ => false

/-! ## What an operation puts on the interface, in order -/

/-- The interface calls made between two states, in order. -/
def callsBetween (s t : State) : List Call := (t.trace.drop s.trace.length).map Event.call

/-- One item of an operation's timeline: a single event, a Command sent as it is, a Command sent after a busy poll. -/
inductive Item where
  | event (c : Call)
  | plain (c : Command)
  | polled (c : Command)
  deriving DecidableEq, Repr

/-- The calls of one `send` of a Command the transport takes (R104 to R107, R112, R113). -/
def sendCalls (s : State) (c : Command) : List Call :=
  match wiresOf { s with X := { s.X with firstCommandSent := true } } c with
  | .ok ws => callsOf ws
  | .error _ => []

/-- The calls of a poll loop that finds the controller busy `n` times (R117). -/
def pollCalls (s : State) (n : Nat) : List Call :=
  (List.replicate n (sendCalls s busyRead ++ [.delayUs s.pollInterval])).flatten ++ sendCalls s busyRead

/-- Whether some calls are those of a timeline, each poll finding the controller busy some number of times. -/
def Follows (s : State) : List Item → List Call → Prop
  | [], calls => calls = []
  | .event c :: items, calls => ∃ more, calls = c :: more ∧ Follows s items more
  | .plain c :: items, calls => ∃ more, calls = sendCalls s c ++ more ∧ Follows s items more
  | .polled c :: items, calls => ∃ n more, calls = pollCalls s n ++ sendCalls s c ++ more ∧ Follows s items more

/-- The Commands of a timeline, busy reads left out. -/
def commandsOf : List Item → List Command
  | [] => []
  | .event _ :: items => commandsOf items
  | .plain c :: items => c :: commandsOf items
  | .polled c :: items => c :: commandsOf items

/-- The backlight push at the end of `init` (R153 step T4, R120). -/
def backlightItems (s : State) : List Item :=
  match s.params.transport with
  | .i2cBridge => [.event (.i2cWrite s.X.addr [latchByte s.params.latch 0 0 0 (blBit s.S.backlight) 0])]
  | .parallelFourBit => if s.params.hasBacklight then [.event (.pinSet .bl (blLv s.S.backlight))] else []
  | .parallelEightBit => if s.params.hasBacklight then [.event (.pinSet .bl (blLv s.S.backlight))] else []

/-- The named steps of `init`, each with what it puts on the interface (R151, R152, R153, R162): plain sends with the fixed
delays, then the polled tail and the backlight. -/
def initStages (s : State) : List (InitStage × List Item) :=
  let fs := instruction (functionSetByte s.S)
  (match s.S.dataWidth with
    | .bit4 =>
      [(.i1, [.plain halfCommand, .event (.delayMs 40)]), (.i2, [.plain fs, .event (.delayUs 40)]),
        (.i3, [.plain fs, .event (.delayUs 40)])]
    | .bit8 => [(.i1, [.plain fs, .event (.delayMs 40)]), (.i2, [.plain fs, .event (.delayUs 40)])])
    ++ [(.t1, [.polled (instruction (displayControlByte s.S))]), (.t2, [.polled (instruction 0x01)]),
      (.t3, [.polled (instruction (entryModeByte s.S))]), (.t4, backlightItems s)]

/-- `init`, one step after the other. -/
def initItems (s : State) : List Item := (initStages s).flatMap Prod.snd

/-- The initialisation step a block is in, if it is in one (R162). -/
def stageOf (s : State) : Option InitStage :=
  match s.seq with
  | .idle => none
  | .running _ st _ => st

/-- From `u` the run passes through the given steps once each, in order, and reaches `t` when it leaves the last: it stays
in each step from the state that enters it to the state `v` before the one that leaves it, and the calls made by the steps
of the block from those states are the step's own. -/
def PassesThrough (s : State) : List (InitStage × List Item) → State → State → Prop
  | [], u, t => u = t
  | (g, items) :: more, u, t =>
    ∃ k v w, Runs k u v ∧ (∀ j x, j ≤ k → Runs j u x → stageOf x = some g) ∧ Runs 1 v w ∧ stageOf w ≠ some g
      ∧ Follows s items (callsBetween u w) ∧ PassesThrough s more w t

/-- `typewriter` (R171): each character after its delay. -/
def typewriterItems (text : List Char) (d : Nat) : List Item :=
  text.flatMap fun ch => [.event (.delayUs d), .polled (dataWrite (charByte ch))]

/-- The Display on/off Command of the shadow with another display value (R143). -/
def displayItem (S : DisplayState) (v : Switch) : Item :=
  .polled (instruction (displayControlByte { S with displayOn := v }))

/-- The Display on/off Command of the shadow with another cursor visibility (R145, R175). -/
def cursorItem (S : DisplayState) (v : Switch) : Item :=
  .polled (instruction (displayControlByte { S with cursorOn := v }))

/-- A window shift of `n` steps (R180), each after its delay, the held display value around them. -/
def windowItems (S : DisplayState) (during : Switch) (n : Nat) (d : Direction) (perStep : Nat) : List Item :=
  [displayItem S during]
    ++ (List.replicate n [.event (.delayUs perStep), .polled (instruction (shiftByte .cursorAndDisplay d))]).flatten
    ++ [displayItem S S.displayOn]

/-- `count` blinks (R183): two toggles each, each after its delay. -/
def blinkItems (S : DisplayState) (count interval : Nat) : List Item :=
  (List.replicate count
    [.event (.delayUs interval), displayItem S (match S.displayOn with | .on => .off | .off => .on),
      .event (.delayUs interval), displayItem S S.displayOn]).flatten

/-- The cursor's position after `n` steps in the configured direction (R133). -/
def cellAt (S : DisplayState) (n : Nat) : Pos := Nat.iterate (fun p => stepPos S.lineMode p S.direction) n S.cursorPos

/-- The cells of a text, each with the code of its character (R174, R176). -/
def flapCells (S : DisplayState) (text : List Char) : List (Pos × Nat) :=
  text.zipIdx.map fun x => (cellAt S x.2, x.1.toNat)

/-- The codes from `lo` to `hi`, ascending. -/
def codes (lo hi : Nat) : List Nat := List.range' lo (hi + 1 - lo)

/-- The flips of one cell (R174): every code from the start to the target, each after its delay, and back to the cell after
every flip but the last. -/
def flipItems (S : DisplayState) (m : Option Nat) (perFlip : Nat) (cell : Pos × Nat) : List Item :=
  (codes (startByte cell.2 m) cell.2).flatMap fun b =>
    [.event (.delayUs perFlip), .polled (dataWrite (BitVec.ofNat 8 b))]
      ++ if b < cell.2 then [.polled (instruction (setDdramByte S.lineMode cell.1))] else []

/-- `split_flap_sequential` (R174, R175). -/
def sequentialItems (S : DisplayState) (text : List Char) (m : Option Nat) (perFlip perChar : Nat) : List Item :=
  [cursorItem S .off]
    ++ (flapCells S text).flatMap (fun cell => .event (.delayUs perChar) :: flipItems S m perFlip cell)
    ++ [cursorItem S S.cursorOn]

/-- One step of the shared scan (R176, conflict C2): the current code into every cell whose target is not below it. -/
def scanItems (S : DisplayState) (cells : List (Pos × Nat)) (perFlip b : Nat) : List Item :=
  (cells.filter fun cell => b ≤ cell.2).flatMap
      (fun cell => [.polled (instruction (setDdramByte S.lineMode cell.1)), .polled (dataWrite (BitVec.ofNat 8 b))])
    ++ [.event (.delayUs perFlip)]

/-- `split_flap_simultaneous` (R175, R176): nothing for an empty text; otherwise from the start of the smallest target to
the largest target, then the cursor past the text. -/
def simultaneousItems (S : DisplayState) (text : List Char) (m : Option Nat) (perFlip : Nat) : List Item :=
  match text with
  | [] => []
  | ch :: more =>
    let lo := more.foldl (fun n x => min n x.toNat) ch.toNat
    let hi := more.foldl (fun n x => max n x.toNat) ch.toNat
    [cursorItem S .off]
      ++ (codes (startByte lo m) hi).flatMap (scanItems S (flapCells S text) perFlip)
      ++ [.polled (instruction (setDdramByte S.lineMode (cellAt S text.length))), cursorItem S S.cursorOn]

/-- The bytes written right after a cell's address, in order. -/
def bytesTo (S : DisplayState) (cell : Pos) : List Command → List Byte
  | [] => []
  | [_] => []
  | c :: d :: cs =>
    if c = instruction (setDdramByte S.lineMode cell) then
      match d.rs, d.rw, d.data with
      | .data, .write, .bit8 b => b :: bytesTo S cell (d :: cs)
      | _, _, _ => bytesTo S cell (d :: cs)
    else bytesTo S cell (d :: cs)

end Sys2Proof.Claim

open Sys2Proof Sys2Proof.Machine Sys2Proof.Claim

/-! ## Words and the encoder -/

/-- Decoding the word of a well-formed instruction gives the instruction back, with every operand (R62, R63, R64). -/
def Obligations.DecodeOfEncodeIsTheInstruction : Prop :=
  ∀ i : Instr, i.wellFormed = true → decode (encode i) = .ok i

/-- A word that decodes is the word of a well-formed instruction, but for the input bits of the two reads (R63, R66). -/
def Obligations.EncodeOfDecodeIsTheWord : Prop :=
  ∀ (w : WireWord) (i : Instr), decode w = .ok i →
    i.wellFormed = true
      ∧ (encode i = w
        ∨ (i = .readBusyFlagAndAddress ∧ ∃ r : Byte, w = .wide (0b01#2 ++ r))
        ∨ (i = .readDataFromRAM ∧ ∃ r : Byte, w = .wide (0b11#2 ++ r)))

/-- A word of each of the eleven formats, written from its pattern in R63, decodes to its instruction, the two reads
whatever their input bits are; the bytes 0000_0000 and
0000_0011 and low bits in Cursor/display shift and Function set decode to none (R67). -/
def Obligations.WrittenOutWordsDecode : Prop :=
  decodeTableWord 16 0b0000000001 = some .clearDisplay
    ∧ decodeTableWord 16 0b0000000010 = some .returnHome
    ∧ decodeTableWord 16 0b0000000110 = some (.entryModeSet .leftToRight .cursorOnly)
    ∧ decodeTableWord 16 0b0000001100 = some (.displayOnOff .on .off .off)
    ∧ decodeTableWord 16 0b0000011000 = some (.cursorOrDisplayShift .cursorAndDisplay .rightToLeft)
    ∧ decodeTableWord 8 0b000010 = some .halfFunctionSet
    ∧ decodeTableWord 16 0b0000101000 = some (.functionSet .bit4 .twoLine .font5x8)
    ∧ decodeTableWord 16 0b0001001000 = some (.setCGRAM 8)
    ∧ decodeTableWord 16 0b0011000000 = some (.setDDRAM 0x40)
    ∧ decodeTableWord 16 0b1001001000 = some (.writeDataToRAM 0x48)
    ∧ (∀ r : Byte, decode (.wide (0b01#2 ++ r)) = .ok .readBusyFlagAndAddress)
    ∧ (∀ r : Byte, decode (.wide (0b11#2 ++ r)) = .ok .readDataFromRAM)
    ∧ decodeTableWord 16 0b0100000000 = some .readBusyFlagAndAddress
    ∧ decodeTableWord 16 0b1100000000 = some .readDataFromRAM
    ∧ decodeTableWord 16 0 = none ∧ decodeTableWord 16 0b0000000011 = none
    ∧ decodeTableWord 16 0b0000010001 = none ∧ decodeTableWord 16 0b0000100010 = none

/-- The encoder's Commands, one by one (R81 to R92), and its two fatal errors. -/
def Obligations.EncoderGivesTheListedCommands : Prop :=
  (∀ i rs b, payload i = some (rs, b) → encodeCommand i = .ok (writeCommand rs b))
    ∧ encodeCommand .halfFunctionSet = .ok halfCommand
    ∧ (∀ i rs, readFrom i = some rs → encodeCommand i = .ok (readCommand rs))
    ∧ (∀ a, 64 ≤ a → encodeCommand (.setCGRAM a) = .error (.cgramAddrOutOfRange a))
    ∧ (∀ a, 128 ≤ a → encodeCommand (.setDDRAM a) = .error (.ddramAddrOutOfRange a))

/-- The wire word of an instruction and the Command of its encoder are the same Command (R60, R62). -/
def Obligations.WordAndEncoderAgree : Prop :=
  ∀ (w : WireWord) (i : Instr), decode w = .ok i → encodeCommand i = .ok w.command

/-! ## A step and its instruction -/

/-- An idle block that is not halted runs the instruction its next word names, in the state without that request. -/
def Obligations.StepRunsTheDecodedInstruction : Prop :=
  ∀ (s : State) (w : WireWord) (i : Instr) (rs : List Request),
    s.fatal = none → s.seq = .idle → s.requests = .word w :: rs → decode w = .ok i →
      step s = exec i { s with requests := rs }

/-- A word that names no instruction is delivered as the Command it stands for (R67, R100; the model's choice of what
a request's word means is log entry 3): on four lines `0000_0000` is sent like any byte. -/
def Obligations.UndecodedWordIsDeliveredUnchanged : Prop :=
  ∀ (s : State) (b : Byte) (rs : List Request),
    s.fatal = none → s.seq = .idle → s.params.transport = .parallelFourBit → Allows 14 s.env →
    s.requests = .word (.wide (0b00#2 ++ b)) :: rs → (∀ i, decode (.wide (0b00#2 ++ b)) ≠ .ok i) →
      step s = .next (afterFourBitByte { s with requests := rs } .command b)

/-! ## The instructions on each transport -/

/-- Four lines: Clear display, Return home, Entry mode set, Display on/off, Cursor/display shift, Function set, Set CGRAM
address, Set DDRAM address and Write data each complete, with exactly this next state (R104): RS, RW, the high nibble,
a strobe, the low nibble, a strobe; the shadow and everything else unchanged. -/
def Obligations.FourBitWritesComplete : Prop :=
  ∀ (s : State) (i : Instr) (rs : RegSel) (b : Byte),
    s.fatal = none → s.params.transport = .parallelFourBit → Allows 14 s.env → payload i = some (rs, b) →
      exec i s = .next (afterFourBitByte s rs b)

/-- Four lines: the half function set completes with one nibble (R104). -/
def Obligations.FourBitHalfFunctionSetCompletes : Prop :=
  ∀ s : State, s.fatal = none → s.params.transport = .parallelFourBit → Allows 8 s.env →
    exec .halfFunctionSet s = .next (afterFourBitHalf s)

/-- Four lines: the two reads complete, whatever eight levels the environment answers (R106). -/
def Obligations.FourBitReadsComplete : Prop :=
  ∀ (s : State) (i : Instr) (rs : RegSel) (h0 h1 h2 h3 l0 l1 l2 l3 : Level),
    s.fatal = none → s.params.transport = .parallelFourBit → Allows 22 s.env → readFrom i = some rs →
    drawLevels 8 s.env = [h0, h1, h2, h3, l0, l1, l2, l3] →
      exec i s = .next (afterFourBitRead s rs h0 h1 h2 h3 l0 l1 l2 l3)

/-- Eight lines: the nine instructions with an 8-bit payload each complete with one strobe (R105). -/
def Obligations.EightBitWritesComplete : Prop :=
  ∀ (s : State) (i : Instr) (rs : RegSel) (b : Byte),
    s.fatal = none → s.params.transport = .parallelEightBit → Allows 12 s.env → payload i = some (rs, b) →
      exec i s = .next (afterEightBitByte s rs b)

/-- Eight lines: the two reads complete (R107). -/
def Obligations.EightBitReadsComplete : Prop :=
  ∀ (s : State) (i : Instr) (rs : RegSel) (l0 l1 l2 l3 l4 l5 l6 l7 : Level),
    s.fatal = none → s.params.transport = .parallelEightBit → Allows 20 s.env → readFrom i = some rs →
    drawLevels 8 s.env = [l0, l1, l2, l3, l4, l5, l6, l7] →
      exec i s = .next (afterEightBitRead s rs l0 l1 l2 l3 l4 l5 l6 l7)

/-- Over the bridge, the bootstrap done: the nine instructions with an 8-bit payload each complete with two nibbles of
three transactions, unless they ask for 8-bit width (R109, R111, R112). -/
def Obligations.BridgeWritesComplete : Prop :=
  ∀ (s : State) (i : Instr) (rs : RegSel) (b : Byte),
    s.fatal = none → s.params.transport = .i2cBridge → s.X.firstCommandSent = true → Allows 6 s.env →
    (∀ line font, i ≠ .functionSet .bit8 line font) → payload i = some (rs, b) →
      exec i s = .next (afterBridgeByte s rs b)

/-- Over the bridge the half function set completes, first or later, and is what sets `first_command_sent` (R110,
R112). -/
def Obligations.BridgeHalfFunctionSetCompletes : Prop :=
  ∀ s : State, s.fatal = none → s.params.transport = .i2cBridge → Allows 3 s.env →
    exec .halfFunctionSet s = .next (afterBridgeHalf s)

/-- Over the bridge, the bootstrap done, the two reads complete, whatever two bytes the bridge answers (R113). -/
def Obligations.BridgeReadsComplete : Prop :=
  ∀ (s : State) (i : Instr) (rs : RegSel) (h l : Byte),
    s.fatal = none → s.params.transport = .i2cBridge → s.X.firstCommandSent = true → Allows 6 s.env →
    readFrom i = some rs → drawBytes 2 s.env = [h, l] →
      exec i s = .next (afterBridgeRead s rs h l)

/-- The fatal errors raised inside a `send`, before any event: nothing is assigned, emitted or delivered (R105, R109,
R110), and the encoder's two (R88, R89). The half function set is refused on eight lines; over the bridge every other
instruction is refused first, and a Function set with W = 1 always. -/
def Obligations.RefusedInstructionsEmitNothing : Prop :=
  ∀ (s : State) (i : Instr) (e : FatalError), s.fatal = none →
    ((s.params.transport = .parallelEightBit ∧ i = .halfFunctionSet ∧ e = .malformedCommand)
      ∨ (s.params.transport = .i2cBridge ∧ s.X.firstCommandSent = false ∧ i.wellFormed = true
          ∧ i ≠ .halfFunctionSet ∧ e = .i2cFirstCommandNotBootstrap)
      ∨ (s.params.transport = .i2cBridge ∧ s.X.firstCommandSent = true
          ∧ (∃ line font, i = .functionSet .bit8 line font) ∧ e = .i2cEightBitRequest)
      ∨ (∃ a, 64 ≤ a ∧ i = .setCGRAM a ∧ e = .cgramAddrOutOfRange a)
      ∨ (∃ a, 128 ≤ a ∧ i = .setDDRAM a ∧ e = .ddramAddrOutOfRange a)) →
    exec i s = .next { s with fatal := some e, result := .nothing, seq := .running 0 none [] }

/-- A failing event is `IoFault` at that event: those before it have happened, none after it, the lines stay as the
last successful event left them, nothing is delivered and the block is halted (R114, R205). -/
def Obligations.IoFaultStopsAtTheFailingEvent : Prop :=
  ∀ (s : State) (i : Instr) (c : Command) (ws : List Wire) (k : Nat),
    s.fatal = none → encodeCommand i = .ok c → wiresOf s c = .ok ws → s.env.failIn = some k →
    (h : k < (callsOf ws).length) →
      ∃ t, exec i s = .next t ∧ t.fatal = some (.ioFault (callsOf ws)[k])
        ∧ t.trace.map Event.call = s.trace.map Event.call ++ (callsOf ws).take k
        ∧ t.X.level = linesAfter ((callsOf ws).take k) s.X.level
        ∧ t.S = s.S ∧ t.sent = s.sent ∧ t.delivered = s.delivered
        ∧ t.X.firstCommandSent = s.X.firstCommandSent ∧ t.seq ≠ .idle

/-- No instruction requested by itself changes the shadow, `poll_interval` or the parameters, or takes another request:
the shadow is updated by the façade operations alone (R56, R80, R100). -/
def Obligations.InstructionsLeaveTheShadowAlone : Prop :=
  ∀ (i : Instr) (s t : State), exec i s = .next t →
    t.S = s.S ∧ t.pollInterval = s.pollInterval ∧ t.params = s.params ∧ t.requests = s.requests
      ∧ t.X.addr = s.X.addr ∧ t.X.backlight = s.X.backlight ∧ t.X.level.bl = s.X.level.bl
      ∧ ∃ es, t.trace = s.trace ++ es

/-- `halted` (R28): false at construction with parameters that pass its checks, true after every `raise`, and while it
is true no step and no instruction goes on. -/
def Obligations.HaltedBlockDoesNothing : Prop :=
  State.reset.fatal = none
    ∧ (∀ p, constructionError p = none → (State.construct p).fatal = none)
    ∧ (∀ (s : State) (e : FatalError), (s.raise e).halted = true)
    ∧ (∀ (s : State) (e : FatalError), s.fatal = some e →
        step s = .fault (.halted e) ∧ ∀ i, exec i s = .fault (.halted e))

/-! ## Positions, addresses, characters -/

/-- `step_pos` (R133): the four wraps, bounds kept, and left-to-right undone by right-to-left. -/
def Obligations.StepPosFollowsItsRule : Prop :=
  (∀ m p, p.col < lineCapacity m - 1 → stepPos m p .leftToRight = { col := p.col + 1, row := p.row })
    ∧ (∀ p : Pos, 39 ≤ p.col → stepPos .twoLine p .leftToRight = { col := 0, row := 1 - p.row })
    ∧ (∀ p : Pos, 79 ≤ p.col → stepPos .oneLine p .leftToRight = { col := 0, row := 0 })
    ∧ (∀ m p, 0 < p.col → stepPos m p .rightToLeft = { col := p.col - 1, row := p.row })
    ∧ (∀ p : Pos, p.col = 0 → stepPos .twoLine p .rightToLeft = { col := 39, row := 1 - p.row })
    ∧ (∀ p : Pos, p.col = 0 → stepPos .oneLine p .rightToLeft = { col := 79, row := 0 })
    ∧ ∀ m p, inBounds m p = true →
        (∀ d, inBounds m (stepPos m p d) = true)
          ∧ stepPos m (stepPos m p .leftToRight) .rightToLeft = p

/-- `ddram_addr` (R44): its formula, always below 128, so the encoder takes it; and two positions never share an
address. -/
def Obligations.DdramAddrFollowsItsRule : Prop :=
  (∀ p : Pos, ddramAddr .oneLine p = p.col)
    ∧ (∀ p : Pos, ddramAddr .twoLine p = p.col + 0x40 * p.row)
    ∧ (∀ m p, inBounds m p = true →
        ddramAddr m p < 128 ∧ ddramAddr m p ≤ (match m with | .oneLine => 0x4F | .twoLine => 0x67)
          ∧ encodeSetDDRAM (ddramAddr m p) = .ok (instruction (setDdramByte m p)))
    ∧ ∀ m p q, inBounds m p = true → inBounds m q = true → ddramAddr m p = ddramAddr m q → p = q

/-- `calculate_pos_by_offset` (R137): its checks in order, its result in each line mode, and that the operation returns
it with no event and no other change, or halts on a failed check with nothing assigned. -/
def Obligations.CalculatePosFollowsItsRule : Prop :=
  (∀ m p dx dy, inBounds m p = false → calculatePos m p dx dy = .error (.posOutOfRange p))
    ∧ (∀ m p dx dy, inBounds m p = true → (lineCapacity m : Int) ≤ |dx| →
        calculatePos m p dx dy = .error (.offsetOutOfRange (.delta dx dy)))
    ∧ (∀ p dx dy, inBounds .twoLine p = true → |dx| < 40 → 1 < |dy| →
        calculatePos .twoLine p dx dy = .error (.offsetOutOfRange (.delta dx dy)))
    ∧ (∀ p dx dy, inBounds .oneLine p = true → |dx| < 80 → dy ≠ 0 →
        calculatePos .oneLine p dx dy = .error (.offsetOutOfRange (.delta dx dy)))
    ∧ (∀ (p : Pos) (dx dy : Int), inBounds .twoLine p = true → |dx| < 40 → |dy| ≤ 1 →
        ∃ q : Pos, calculatePos .twoLine p dx dy = .ok q
          ∧ (0 ≤ p.col + dx ∧ p.col + dx < 40 → (q.col : Int) = p.col + dx ∧ q.row = (p.row + dy.natAbs) % 2)
          ∧ (40 ≤ p.col + dx → (q.col : Int) = p.col + dx - 40 ∧ q.row = (p.row + dy.natAbs + 1) % 2)
          ∧ (p.col + dx < 0 → (q.col : Int) = p.col + dx + 40 ∧ q.row = (p.row + dy.natAbs + 1) % 2))
    ∧ (∀ (p : Pos) (dx : Int), inBounds .oneLine p = true → |dx| < 80 →
        ∃ q : Pos, calculatePos .oneLine p dx 0 = .ok q ∧ (q.col : Int) = (p.col + dx) % 80 ∧ q.row = 0)
    ∧ (∀ m p dx dy q, calculatePos m p dx dy = .ok q → inBounds m q = true)
    ∧ ∀ (s : State) (p : Pos) (dx dy : Int) (rs : List Request), Asked s (.calculatePosByOffset p dx dy) rs →
        (∀ q, calculatePos s.S.lineMode p dx dy = .ok q → step s = .next (returned s rs (.pos q)))
          ∧ ∀ e, calculatePos s.S.lineMode p dx dy = .error e → step s = .next (refusedWith s rs e)

/-- The source's properties 1 and 2 (95_test_vectors.md V1): no offset is no move, and an offset followed by its
negation returns to the start. -/
def Obligations.OffsetsCanBeUndone : Prop :=
  (∀ m p, inBounds m p = true → calculatePos m p 0 0 = .ok p)
    ∧ ∀ m p dx dy q, calculatePos m p dx dy = .ok q → calculatePos m q (-dx) (-dy) = .ok p

/-- `char_byte` (R72). -/
def Obligations.CharByteFollowsItsRule : Prop :=
  ∀ ch : Char,
    (0x20 ≤ ch.toNat ∧ ch.toNat ≤ 0x7D → (charByte ch).toNat = ch.toNat)
      ∧ (ch.toNat < 0x20 ∨ 0x7D < ch.toNat → charByte ch = 0xFF)

/-- `start_byte` (R173). -/
def Obligations.StartByteFollowsItsRule : Prop :=
  (∀ t, startByte t none = 0x20)
    ∧ (∀ t m, (startByte t (some m) : Int) = max 0x20 ((t : Int) - m))
    ∧ ∀ t, 0x20 ≤ t → startByte t (some 0) = t

/-- Every plan of a window shift ends at its target: its number of single steps in its direction takes the offset there,
for every strategy and either sign of `P_OFFSET_STEP_LTR`, in fewer steps than the line has columns (R178,
95_test_vectors.md V7). ForceLeft and ForceRight have their directions; NoBoundaryCross takes |target - offset| steps, in
the direction whose step has the sign of the move; Shortest plans at most half the line, and on a tie what NoBoundaryCross
plans (D30, U9). -/
def Obligations.WindowShiftPlansReachTheirTarget : Prop :=
  ∀ (st : OffsetStep) (m : LineMode) (cur tgt : Nat), cur < lineCapacity m → tgt < lineCapacity m → cur ≠ tgt →
    (∀ strategy,
      Nat.iterate (fun o => shiftOffset st m o (planShift st m cur tgt strategy).2)
        (planShift st m cur tgt strategy).1 cur = tgt
      ∧ (planShift st m cur tgt strategy).1 < lineCapacity m)
      ∧ (planShift st m cur tgt .forceLeft).2 = .rightToLeft
      ∧ (planShift st m cur tgt .forceRight).2 = .leftToRight
      ∧ ((planShift st m cur tgt .noBoundaryCross).1 : Int) = |(tgt : Int) - cur|
      ∧ ((planShift st m cur tgt .noBoundaryCross).2 = .leftToRight ↔ (cur < tgt ↔ st = .plusOne))
      ∧ 2 * (planShift st m cur tgt .shortest).1 ≤ lineCapacity m
      ∧ (2 * (planShift st m cur tgt .shortest).1 = lineCapacity m →
          planShift st m cur tgt .shortest = planShift st m cur tgt .noBoundaryCross)

/-! ## Operations: checks, assignments, then the Command -/

/-- The addressing operations (R138, R139, R140, R135, R136): in range they assign the shadow and then send their
instruction after the busy poll; out of range they halt the block with nothing assigned. -/
def Obligations.AddressingOperationsAssignThenSend : Prop :=
  ∀ (s : State) (rs : List Request),
    (∀ p, Asked s (.setCursorPos p) rs →
      (inBounds s.S.lineMode p = true →
        step s = .next (begun s rs { s.S with cursorPos := p, ramType := .ddram }
          [.waitIdle (instruction (setDdramByte s.S.lineMode p))]))
      ∧ (inBounds s.S.lineMode p = false → step s = .next (refusedWith s rs (.posOutOfRange p))))
    ∧ (∀ a, Asked s (.setCgramAddr a) rs →
      (a < 64 →
        step s = .next (begun s rs { s.S with ramType := .cgram } [.waitIdle (instruction (BitVec.ofNat 8 (0x40 + a)))]))
      ∧ (64 ≤ a → step s = .next (refusedWith s rs (.cgramAddrOutOfRange a))))
    ∧ (∀ d, Asked s (.shiftCursorOrDisplay .cursorOnly d) rs →
      step s = .next (begun s rs { s.S with cursorPos := stepPos s.S.lineMode s.S.cursorPos d }
        [.waitIdle (instruction (shiftByte .cursorOnly d))]))
    ∧ (∀ d, Asked s (.shiftCursorOrDisplay .cursorAndDisplay d) rs →
      ∃ o : Nat,
        (o : Int) = (s.S.displayOffset
          + (if (d = .leftToRight) = (s.params.offsetStepLtr = .plusOne) then 1 else -1)) % lineCapacity s.S.lineMode
        ∧ step s = .next (begun s rs { s.S with displayOffset := o }
            [.waitIdle (instruction (shiftByte .cursorAndDisplay d))]))

/-- The configuration setters (R141 to R147): the checks of the first two, the field assigned, and the composite
instruction of the new shadow sent (R132). -/
def Obligations.SettersAssignThenSend : Prop :=
  ∀ (s : State) (rs : List Request),
    (∀ m, Asked s (.setLineMode m) rs →
      (m = .twoLine ∧ s.S.font = .font5x11 → step s = .next (refusedWith s rs .invalidFontLine))
      ∧ (¬ (m = .twoLine ∧ s.S.font = .font5x11) → positionsWithin m s.S = false →
          step s = .next (refusedWith s rs (.posOutOfRange s.S.cursorPos)))
      ∧ (¬ (m = .twoLine ∧ s.S.font = .font5x11) → positionsWithin m s.S = true →
          step s = .next (begun s rs { s.S with lineMode := m }
            [.waitIdle (instruction (functionSetByte { s.S with lineMode := m }))])))
    ∧ (∀ f, Asked s (.setFont f) rs →
      (s.S.lineMode = .twoLine ∧ f = .font5x11 → step s = .next (refusedWith s rs .invalidFontLine))
      ∧ (¬ (s.S.lineMode = .twoLine ∧ f = .font5x11) →
          step s = .next (begun s rs { s.S with font := f }
            [.waitIdle (instruction (functionSetByte { s.S with font := f }))])))
    ∧ (∀ v, Asked s (.setDisplayOn v) rs →
      step s = .next (begun s rs { s.S with displayOn := v }
        [.waitIdle (instruction (displayControlByte { s.S with displayOn := v }))]))
    ∧ (∀ v, Asked s (.setCursorOn v) rs →
      step s = .next (begun s rs { s.S with cursorOn := v }
        [.waitIdle (instruction (displayControlByte { s.S with cursorOn := v }))]))
    ∧ (∀ v, Asked s (.setCursorBlink v) rs →
      step s = .next (begun s rs { s.S with cursorBlink := v }
        [.waitIdle (instruction (displayControlByte { s.S with cursorBlink := v }))]))
    ∧ (∀ d, Asked s (.setDirection d) rs →
      step s = .next (begun s rs { s.S with direction := d }
        [.waitIdle (instruction (entryModeByte { s.S with direction := d }))]))
    ∧ (∀ t, Asked s (.setShiftType t) rs →
      step s = .next (begun s rs { s.S with shiftType := t }
        [.waitIdle (instruction (entryModeByte { s.S with shiftType := t }))]))

/-- Clear, home and the transfers at the cursor (R154 to R157, R159): their checks, their assignments and what they
send. The cursor of a transfer steps after the Command (R134). -/
def Obligations.FacadeOperationsBeginAsTheirRulesSay : Prop :=
  ∀ (s : State) (rs : List Request),
    (Asked s .clearDisplay rs →
      step s = .next (begun s rs
        { s.S with
          cursorPos := { col := 0, row := 0 }, displayOffset := 0, ramType := .ddram
          direction := if s.params.clearSetsLtr then .leftToRight else s.S.direction }
        [.waitIdle (instruction 0x01)]))
    ∧ (Asked s .returnHome rs →
      step s = .next (begun s rs
        { s.S with cursorPos := { col := 0, row := 0 }, displayOffset := 0, ramType := .ddram }
        [.waitIdle (instruction 0x02)]))
    ∧ (∀ b, Asked s (.writeU8ToCur b) rs →
      (s.S.ramType = .ddram → step s = .next (begun s rs s.S [.waitIdle (dataWrite b), .stepCursor]))
      ∧ (s.S.ramType = .cgram → step s = .next (refusedWith s rs .wrongRamSpace)))
    ∧ (Asked s .readU8FromCur rs →
      (s.S.ramType = .ddram →
        step s = .next (begun s rs s.S [.waitIdle (readCommand .data), .stepCursor, .returnSent]))
      ∧ (s.S.ramType = .cgram → step s = .next (refusedWith s rs .wrongRamSpace)))
    ∧ (∀ ch, Asked s (.writeCharToCur ch) rs →
      (s.S.ramType = .ddram → step s = .next (begun s rs s.S [.call (.writeU8ToCur (charByte ch))]))
      ∧ (s.S.ramType = .cgram → step s = .next (refusedWith s rs .wrongRamSpace)))

/-- The remaining fatal errors of the operations, each with nothing assigned and nothing emitted (R191, R194, R195,
R198 to R202, R207): positional transfers, glyph programming with the lowest bad row, the macros in the order of their
checks, and `init` with the wrong width. -/
def Obligations.FailedChecksChangeNothing : Prop :=
  ∀ (s : State) (rs : List Request),
    (∀ p, Asked s (.readByteFromPos p) rs → inBounds s.S.lineMode p = false →
      step s = .next (refusedWith s rs (.posOutOfRange p)))
    ∧ (∀ p b, Asked s (.writeByteToPos p b) rs → inBounds s.S.lineMode p = false →
      step s = .next (refusedWith s rs (.posOutOfRange p)))
    ∧ (∀ index rows, Asked s (.writeGraphToCgram index rows) rs → 7 < index →
      step s = .next (refusedWith s rs (.cgramIndexOutOfRange index)))
    ∧ (∀ index (rows : Vector Byte 8) (k : Fin 8), Asked s (.writeGraphToCgram index rows) rs → index ≤ 7 →
        0x1F < rows[k].toNat → (∀ j : Fin 8, j < k → rows[j].toNat ≤ 0x1F) →
      step s = .next (refusedWith s rs (.graphRowOutOfRange k rows[k])))
    ∧ (∀ text d, Asked s (.typewriter text d) rs → s.S.ramType = .cgram →
      step s = .next (refusedWith s rs .wrongRamSpace))
    ∧ (∀ before ch after m f c, Asked s (.splitFlapSequential (before ++ ch :: after) m f c) rs →
        (∀ x ∈ before, 0x20 ≤ x.toNat ∧ x.toNat ≤ 0x7D) → ch.toNat < 0x20 ∨ 0x7D < ch.toNat →
      step s = .next (refusedWith s rs (.nonPrintableInSplitFlap ch)))
    ∧ (∀ before ch after m f, Asked s (.splitFlapSimultaneous (before ++ ch :: after) m f) rs →
        (∀ x ∈ before, 0x20 ≤ x.toNat ∧ x.toNat ≤ 0x7D) → ch.toNat < 0x20 ∨ 0x7D < ch.toNat →
      step s = .next (refusedWith s rs (.nonPrintableInSplitFlap ch)))
    ∧ (∀ text m f c, Asked s (.splitFlapSequential text m f c) rs →
        (∀ x ∈ text, 0x20 ≤ x.toNat ∧ x.toNat ≤ 0x7D) → s.S.ramType = .cgram →
      step s = .next (refusedWith s rs .wrongRamSpace))
    ∧ (∀ text m f, Asked s (.splitFlapSimultaneous text m f) rs →
        (∀ x ∈ text, 0x20 ≤ x.toNat ∧ x.toNat ≤ 0x7D) → s.S.ramType = .cgram →
      step s = .next (refusedWith s rs .wrongRamSpace))
    ∧ (∀ text m f, Asked s (.splitFlapSequential text m f none) rs →
        (∀ x ∈ text, 0x20 ≤ x.toNat ∧ x.toNat ≤ 0x7D) → s.S.ramType = .ddram →
      step s = .next (refusedWith s rs .missingPerCharDelay))
    ∧ (∀ t st v d, Asked s (.shiftDisplayToPos t st v d) rs → lineCapacity s.S.lineMode ≤ t →
      step s = .next (refusedWith s rs (.offsetOutOfRange (.target t))))
    ∧ (Asked s .init rs → s.params.transport = .i2cBridge → s.S.dataWidth = .bit8 →
      step s = .next (refusedWith s rs .i2cEightBitRequest))
    ∧ (Asked s .init rs → s.params.transport ≠ .i2cBridge →
        s.params.pinCnt ≠ (match s.S.dataWidth with | .bit4 => 4 | .bit8 => 8) →
      step s = .next (refusedWith s rs .widthTransportMismatch))

/-- Reading the shadow (R148): the value, with no event and no effect; and no operation sets `S.data_width`. -/
def Obligations.ShadowReadsHaveNoEffect : Prop :=
  (∀ (o : Op) (s s' : State) (ms : List Micro), startOp o s = .ok (s', ms) → s'.S.dataWidth = s.S.dataWidth)
  ∧ ∀ (s : State) (rs : List Request) (f : Field) (r : Result),
    Asked s (.get f) rs →
    ((f, r) ∈ [(.dataWidth, .dataWidth s.S.dataWidth), (.lineMode, .lineMode s.S.lineMode), (.font, .font s.S.font),
        (.displayOn, .switch s.S.displayOn), (.cursorOn, .switch s.S.cursorOn),
        (.cursorBlink, .switch s.S.cursorBlink), (.direction, .direction s.S.direction),
        (.shiftType, .shiftType s.S.shiftType), (.cursorPos, .pos s.S.cursorPos),
        (.displayOffset, .nat s.S.displayOffset), (.ramType, .ramType s.S.ramType),
        (.backlight, .switch s.S.backlight),
        (.lineCapacity, .nat (match s.S.lineMode with | .oneLine => 80 | .twoLine => 40)),
        (.rowCount, .nat (match s.S.lineMode with | .oneLine => 1 | .twoLine => 2))]) →
      step s = .next (returned s rs r)

/-- The backlight (R119, R120, R212): `get_backlight` answers the stored or driven value with no event, Off where the
line is absent; `set_backlight` assigns the shadow always, and then writes one latch byte with enable low, drives the
line, or does nothing. -/
def Obligations.BacklightFollowsItsRules : Prop :=
  ∀ (s : State) (rs : List Request) (v : Switch),
    (Asked s .getBacklight rs →
      (s.params.transport = .i2cBridge → step s = .next (returned s rs (.switch s.X.backlight)))
      ∧ (s.params.transport ≠ .i2cBridge → s.params.hasBacklight = true → s.X.level.bl = .driven .high →
          step s = .next (returned s rs (.switch .on)))
      ∧ (s.params.transport ≠ .i2cBridge → s.params.hasBacklight = true → s.X.level.bl ≠ .driven .high →
          step s = .next (returned s rs (.switch .off)))
      ∧ (s.params.transport ≠ .i2cBridge → s.params.hasBacklight = false →
          step s = .next (returned s rs (.switch .off))))
    ∧ (Asked s (.setBacklight v) rs →
      (s.params.transport = .i2cBridge →
        step s = .next
          { begun s rs { s.S with backlight := v }
              [.wire (.call (.i2cWrite s.X.addr [latchByte s.params.latch 0 0 0 (blBit v) 0]))] with
            X := { s.X with backlight := v } })
      ∧ (s.params.transport ≠ .i2cBridge → s.params.hasBacklight = true →
        step s = .next (begun s rs { s.S with backlight := v }
          [.wire (.call (.pinSet .bl (match v with | .on => .high | .off => .low)))]))
      ∧ (s.params.transport ≠ .i2cBridge → s.params.hasBacklight = false →
        step s = .next { s with requests := rs, result := .nothing, S := { s.S with backlight := v } }))

/-- The operations of the transport and the encoder called by the host (R80, R100, R116, R117, R118, R193). Raw `send`,
`delay_then_send` and `is_busy` end exactly where the whole send of their Command ends, after the delay of the second, with
the optional byte or bit 7 of the byte as the value returned; a `send` that halts halts them. A Command of none of the four
shapes of R61 is `MalformedCommand` (R206) with no event, on every transport and before the bridge's own checks (R209), with
nothing changed that the raw `send` had not changed before it. The encoder answers its
Command, or its fatal error, with no event. `wait_until_idle_then_send` begins with the poll loop. -/
def Obligations.TransportOperationsSendAndReturn : Prop :=
  ∀ (s : State) (c : Command),
    let taken : State := { s with requests := [], result := .nothing }
    let whole := taken.sendNow c
    let busy := taken.sendNow busyRead
    (Asked s (.send c) [] →
      (whole.fatal = none → RunsToIdle s
        { whole with result := match whole.sent with | some b => .byte b | none => .nothing })
      ∧ (whole.fatal ≠ none → ∃ k t, Runs k s t ∧ t.fatal = whole.fatal ∧ t.trace = whole.trace ∧ t.S = s.S))
    ∧ (∀ rs, Asked s (.send c) rs → Malformed c →
      Runs 2 s { refusedWith s rs .malformedCommand with seq := .running 0 none [.returnSent] })
    ∧ (Asked s .isBusy [] →
      (busy.fatal = none → ∃ r, busy.sent = some r ∧ RunsToIdle s { busy with result := .bool (r.getLsbD 7) })
      ∧ (busy.fatal ≠ none → ∃ k t, Runs k s t ∧ t.fatal = busy.fatal ∧ t.trace = busy.trace ∧ t.S = s.S))
    ∧ (∀ d, Asked s (.delayThenSend c d) [] → s.env.failIn ≠ some 0 →
      let slept : State :=
        { taken with
          trace := s.trace ++ [{ call := .delayUs d, answer := .done }]
          env := { s.env with failIn := failAfter 1 s.env } }
      let whole := slept.sendNow c
      (whole.fatal = none → RunsToIdle s
        { whole with result := match whole.sent with | some b => .byte b | none => .nothing })
      ∧ (whole.fatal ≠ none → ∃ k t, Runs k s t ∧ t.fatal = whole.fatal ∧ t.trace = whole.trace ∧ t.S = s.S))
    ∧ (∀ d, Asked s (.delayThenSend c d) [] → s.env.failIn = some 0 →
      ∃ k t, Runs k s t ∧ t.fatal = some (.ioFault (.delayUs d)) ∧ t.trace = s.trace ∧ t.S = s.S)
    ∧ (∀ rs, Asked s (.waitUntilIdleThenSend c) rs → step s = .next (begun s rs s.S [.waitIdle c, .returnSent]))
    ∧ ∀ i rs, Asked s (.encode i) rs →
      (∀ cmd, encodeCommand i = .ok cmd → step s = .next (returned s rs (.command cmd)))
      ∧ ∀ e, encodeCommand i = .error e → step s = .next (refusedWith s rs e)

/-- The default latch byte (R68): D7 to D4, backlight, enable, RW, RS, from bit 7 to bit 0. -/
def Obligations.DefaultLatchLayout : Prop :=
  ∀ (rs rw en bl : BitVec 1) (n : Nibble),
    latchByte Latch.default rs rw en bl n = n ++ bl ++ en ++ rw ++ rs

/-! ## Construction -/

/-- Construction (R34, R203, R220): no event; the values of R34; the pin count is checked before the font/line
combination. -/
def Obligations.ConstructionFollowsItsRules : Prop :=
  ∀ p : Params,
    (State.construct p).trace = [] ∧ (State.construct p).X.level = Levels.undriven
      ∧ (p.transport ≠ .i2cBridge → p.pinCnt ≠ 4 → p.pinCnt ≠ 8 →
          (State.construct p).fatal = some (.unsupportedPinCount p.pinCnt))
      ∧ (p.transport = .i2cBridge ∨ (p.transport = .parallelFourBit ∧ p.pinCnt = 4)
            ∨ (p.transport = .parallelEightBit ∧ p.pinCnt = 8) →
          (p.config.lineMode = .twoLine ∧ p.config.font = .font5x11 →
            (State.construct p).fatal = some .invalidFontLine)
          ∧ (¬ (p.config.lineMode = .twoLine ∧ p.config.font = .font5x11) →
            State.construct p = State.constructed p))
      ∧ (State.constructed p).S =
          { dataWidth := p.config.dataWidth, lineMode := p.config.lineMode, font := p.config.font
            displayOn := p.config.displayOn, cursorOn := p.config.cursorOn, cursorBlink := p.config.cursorBlink
            direction := p.config.direction, shiftType := p.config.shiftType
            cursorPos := { col := 0, row := 0 }, displayOffset := 0, ramType := .ddram
            backlight := p.config.backlight }
      ∧ (State.constructed p).pollInterval = p.config.pollInterval
      ∧ (State.constructed p).X.firstCommandSent = false ∧ (State.constructed p).X.backlight = .off
      ∧ (State.constructed p).X.addr = p.i2cAddr
      ∧ (State.constructed p).fatal = none ∧ (State.constructed p).seq = .idle

/-! ## Invariants of every step -/

/-- Every step keeps the font/line invariant and the bounds of the cursor and the window (R13, R131). -/
def Obligations.EveryStepKeepsTheShadowInBounds : Prop :=
  ∀ s t : State, s.ShadowOk → step s = .next t → t.ShadowOk

/-- Every step keeps the enable line at rest between two sends (R108). -/
def Obligations.EveryStepKeepsEnableAtRest : Prop :=
  ∀ s t : State, s.EnableOk → step s = .next t → t.EnableOk

/-- Every step keeps the bridge's protocol (R109, R110): nothing delivered before `first_command_sent` is set, the first
Command delivered the bootstrap, no Function set with `W = 1` delivered, and every `send` in progress one that passed both
checks. -/
def Obligations.EveryStepKeepsTheBridgeProtocol : Prop :=
  ∀ s t : State, s.BridgeOk → step s = .next t → t.BridgeOk

/-- Every step of a block in an endless blink leaves it in that blink, or halted (R183, R217); and the blink is entered by
the step that takes its request. So it never becomes idle again. -/
def Obligations.EveryStepKeepsAnEndlessBlinkGoing : Prop :=
  ∀ (s t : State) (interval : Nat), step s = .next t →
    (s.Blinks interval → t.Blinks interval ∧ (t.fatal = none → t.seq ≠ .idle))
      ∧ ∀ rs, Asked s (.fullDisplayBlink 0 interval) rs → t.Blinks interval ∧ t.fatal = none

/-- A constructed block meets the three invariants, whatever its parameters, and so does the reset state. -/
def Obligations.ConstructionMeetsTheInvariants : Prop :=
  (∀ p, (State.construct p).ShadowOk ∧ (State.construct p).EnableOk ∧ (State.construct p).BridgeOk)
    ∧ State.reset.ShadowOk ∧ State.reset.EnableOk ∧ State.reset.BridgeOk

/-- What no step changes or undoes: the parameters (R4), `poll_interval` (R23), `S.data_width` (R11, R148), the bus
address (R26); `first_command_sent` once true (R26), the events and Commands that have happened; a step is never taken
out of a halt (R28). -/
def Obligations.EveryStepKeepsWhatIsFixed : Prop :=
  ∀ s t : State, step s = .next t →
    s.fatal = none ∧ t.params = s.params ∧ t.pollInterval = s.pollInterval ∧ t.S.dataWidth = s.S.dataWidth
      ∧ t.X.addr = s.X.addr ∧ (s.X.firstCommandSent = true → t.X.firstCommandSent = true)
      ∧ (∃ es, t.trace = s.trace ++ es) ∧ ∃ cs, t.delivered = s.delivered ++ cs

/-- A step of an operation in progress emits at most one event, and the sequencer's index counts it (R29). -/
def Obligations.EachStepOfAnOperationIsAtMostOneEvent : Prop :=
  ∀ (s t : State) (n : Nat) (st : Option InitStage) (rest : List Micro),
    s.seq = .running n st rest → step s = .next t →
      (t.trace = s.trace ∧ (t.seq = .idle ∨ ∃ st' r, t.seq = .running n st' r))
        ∨ ((∃ e, t.trace = s.trace ++ [e]) ∧ (t.seq = .idle ∨ ∃ r, t.seq = .running (n + 1) st r))

/-! ## Runs of operations -/

/-- A `send` inside an operation, done event by event, ends exactly where the whole send does, with `seq` idle where it was
the operation's last action; and one that halts the block halts it in the same state, but for the actions left (R29, R30,
R100, R114). -/
def Obligations.SequencedSendEqualsWholeSend : Prop :=
  ∀ (s : State) (n : Nat) (st : Option InitStage) (c : Command) (rest : List Micro),
    s.fatal = none → s.seq = .running n st (.send c :: rest) →
      let whole := ({ s with seq := .running n st rest } : State).sendNow c
      (whole.fatal = none → rest ≠ [] → ∃ k, Runs k s whole)
        ∧ (whole.fatal = none → rest = [] → ∃ k, Runs k s { whole with seq := .idle })
        ∧ (whole.fatal ≠ none → ∃ k t, Runs k s t ∧ { t with seq := whole.seq } = whole)

/-- The poll loop (R117, R118): it reads the busy flag first; busy, it sleeps `poll_interval` and polls again; idle,
it sends. -/
def Obligations.PollLoopFollowsItsRule : Prop :=
  ∀ (s : State) (n : Nat) (st : Option InitStage) (c : Command) (rest : List Micro), s.fatal = none →
    (s.seq = .running n st (.waitIdle c :: rest) →
      step s = .next { s with seq := .running n st (.send busyRead :: .pollTest c :: rest) })
    ∧ (∀ r : Byte, s.seq = .running n st (.pollTest c :: rest) → s.sent = some r → r.getLsbD 7 = true →
      step s = .next
        { s with seq := .running n st (.wire (.call (.delayUs s.pollInterval)) :: .waitIdle c :: rest) })
    ∧ (∀ r : Byte, s.seq = .running n st (.pollTest c :: rest) → s.sent = some r → r.getLsbD 7 = false →
      step s = .next { s with seq := .running n st (.send c :: rest) })

/-- There is no bound on the polls (R117, R217): however many times the controller answers busy, over any transport, the
operation polls that often, sleeps after each, and is still waiting, not faulted and not completed. -/
def Obligations.BusyPollNeverTimesOut : Prop :=
  ∀ (s : State) (c : Command) (rs : List Request) (n : Nat),
    Asked s (.waitUntilIdleThenSend c) rs → AnswersBusy s n → s.env.failIn = none →
      ∃ k t, Runs k s t ∧ t.fatal = none ∧ t.seq ≠ .idle
        ∧ t.delivered = s.delivered ++ List.replicate n busyRead
        ∧ (t.trace.drop s.trace.length).countP (fun e => decide (e.call = .delayUs s.pollInterval)) = n
        ∧ t.S = s.S

/-- Blink with `count = 0` never ends (R183, R217): after any number of steps the block is running it, neither idle nor
halted, if no event fails and the transport takes its Commands. -/
def Obligations.EndlessBlinkNeverCompletes : Prop :=
  ∀ (s : State) (interval : Nat) (rs : List Request) (k : Nat),
    Asked s (.fullDisplayBlink 0 interval) rs → CanSend s → s.env.failIn = none →
      ∃ t, Runs (k + 1) s t ∧ t.fatal = none ∧ t.seq ≠ .idle

/-- Lockstep (R24, R56, R59): an operation that sends one instruction (R138 to R147, R154 to R157, R159), its
preconditions met and the transport taking its Commands, can complete; and begun with the shadow in lockstep with the
controller the source assumes, under the premises the spec asks of such a claim (`lockstepPremise`: D24, N20, G8, U4), it
ends in lockstep, whatever the environment answers. That the controller takes a Function set sent after initialisation is
the model's choice (U7, log entry 23). -/
def Obligations.OneInstructionOperationsKeepLockstep : Prop :=
  ∀ (s : State) (o : Op) (k : AssumedController),
    Asked s o [] → oneInstruction o = true → s.ShadowOk → Lockstep s.S k →
      (allowed s o = true → CanSend s → CanComplete s)
        ∧ (lockstepPremise s o = true → ∀ t, RunsToIdle s t →
          Lockstep t.S (k.takeAll s.params (t.delivered.drop s.delivered.length)))

/-- The shadow hazards (R233, U4): lockstep is lost, and nothing in the block tells, when a data transfer is made with the
entry-mode shift bit set, when Clear display is sent right-to-left while `P_CLEAR_SETS_LTR` is false, when an addressing
instruction goes out by itself, past the façade, and when the controller's state is lost. -/
def Obligations.ShadowHazardsLoseLockstep : Prop :=
  ∀ (s : State) (k : AssumedController), Lockstep s.S k →
    (∀ o t, Asked s o [] → isTransfer o = true → s.S.shiftType = .cursorAndDisplay → RunsToIdle s t →
      t.fatal = none ∧ ¬ Lockstep t.S (k.takeAll s.params (t.delivered.drop s.delivered.length)))
    ∧ (∀ t, Asked s .clearDisplay [] → s.S.direction = .rightToLeft → s.params.clearSetsLtr = false → RunsToIdle s t →
      t.fatal = none ∧ ¬ Lockstep t.S (k.takeAll s.params (t.delivered.drop s.delivered.length)))
    ∧ (∀ a t, a < 128 → s.S.ramType = .ddram → a ≠ ddramAddr s.S.lineMode s.S.cursorPos →
        exec (.setDDRAM a) s = .next t → t.fatal = none →
      t.S = s.S ∧ ¬ Lockstep t.S (k.takeAll s.params (t.delivered.drop s.delivered.length)))
    ∧ ¬ Lockstep s.S .unknown

/-- `init` (R151 to R153, R226): it can complete; and when it does, whatever the controller held before, the shadow is
in lockstep with it, cursor and window home, DDRAM, the configuration unchanged, the listed instructions sent in order,
and the backlight pushed. -/
def Obligations.InitEndsReadyAndInLockstep : Prop :=
  ∀ (s : State) (k : AssumedController), Asked s .init [] → s.ShadowOk → initWidthError s = none →
    (s.params.transport = .parallelFourBit → s.params.pinCnt = 4) →
    (s.params.transport = .parallelEightBit → s.params.pinCnt = 8) →
      CanComplete s
        ∧ ∀ t, RunsToIdle s t →
          t.S = { s.S with cursorPos := { col := 0, row := 0 }, displayOffset := 0, ramType := .ddram }
            ∧ Lockstep t.S (k.takeAll s.params (t.delivered.drop s.delivered.length))
            ∧ sentBetween s t =
                (match s.S.dataWidth with
                  | .bit4 => [halfCommand, instruction (functionSetByte s.S), instruction (functionSetByte s.S)]
                  | .bit8 => [instruction (functionSetByte s.S), instruction (functionSetByte s.S)])
                ++ [instruction (displayControlByte s.S), instruction 0x01, instruction (entryModeByte s.S)]
            ∧ (s.params.transport = .i2cBridge → t.X.firstCommandSent = true ∧ t.X.backlight = s.S.backlight)
            ∧ (s.params.transport ≠ .i2cBridge → s.params.hasBacklight = true →
                t.X.level.bl = .driven (match s.S.backlight with | .on => .high | .off => .low))

/-- `init` puts exactly its timeline on the interface (R151, R152, R153, R236): the 40 ms after the first instruction and
the 40 µs after each later function set, the polls of the tail with `poll_interval` between them, the backlight last. -/
def Obligations.InitFollowsItsTimeline : Prop :=
  ∀ s : State, Asked s .init [] →
    ∀ t, RunsToIdle s t → Follows s (initItems s) (callsBetween s t)

/-- `init` passes through its named steps once each, in order, with no branch back (R162): I1, I2, on the 4-bit path I3, T1,
T2, T3, T4, what each puts on the interface being put there in it; it enters I1 before its first event, and leaves T4 for
the idle block. -/
def Obligations.InitPassesThroughItsStages : Prop :=
  ∀ s : State, Asked s .init [] →
    ∀ t, RunsToIdle s t →
      ∃ u, Runs 2 s u ∧ u.trace = s.trace ∧ PassesThrough s (initStages s) u t

/-- Glyph programming (R158, R45): it can complete; and when it does, the direction is what it was, the RAM space is
CGRAM and nothing else of the shadow has changed; the slot's address and the eight rows were sent top to bottom, with
left-to-right forced around them when the direction is right-to-left. -/
def Obligations.GlyphProgrammingRestoresTheDirection : Prop :=
  ∀ (s : State) (index : Nat) (rows : Vector Byte 8),
    Asked s (.writeGraphToCgram index rows) [] → index ≤ 7 → (∀ j : Fin 8, rows[j].toNat ≤ 0x1F) → CanSend s →
      CanComplete s
        ∧ ∀ t, RunsToIdle s t →
          t.S = { s.S with ramType := .cgram }
            ∧ sentBetween s t =
                (if s.S.direction = .rightToLeft
                  then [instruction (entryModeByte { s.S with direction := .leftToRight })] else [])
                ++ [instruction (BitVec.ofNat 8 (0x40 + 8 * index))] ++ rows.toList.map dataWrite
                ++ (if s.S.direction = .rightToLeft then [instruction (entryModeByte s.S)] else [])

/-- Positional transfers (R160, R161): they can complete; and when they do, the cursor is where it was, the RAM space is
DDRAM and nothing else of the shadow has changed; three instructions were sent (their address bytes by the spec's D22), and
the read returns the byte that its data read was answered. -/
def Obligations.PositionalTransfersRestoreTheCursor : Prop :=
  ∀ (s : State) (p : Pos), inBounds s.S.lineMode p = true → s.ShadowOk → CanSend s →
    (Asked s (.readByteFromPos p) [] →
      CanComplete s
        ∧ ∀ t, RunsToIdle s t →
          t.S = { s.S with ramType := .ddram }
            ∧ (∃ j u b, Runs j s u ∧ s.delivered.length < u.delivered.length
                ∧ u.delivered.getLast? = some (readCommand .data) ∧ u.sent = some b ∧ t.result = .byte b)
            ∧ sentBetween s t =
                [instruction (setDdramByte s.S.lineMode p), readCommand .data,
                  instruction (setDdramByte s.S.lineMode s.S.cursorPos)])
    ∧ (∀ b, Asked s (.writeByteToPos p b) [] →
      CanComplete s
        ∧ ∀ t, RunsToIdle s t →
          t.S = { s.S with ramType := .ddram }
            ∧ sentBetween s t =
                [instruction (setDdramByte s.S.lineMode p), dataWrite b,
                  instruction (setDdramByte s.S.lineMode s.S.cursorPos)])

/-- A window shift (R180): at its target already, it does nothing at all; otherwise it can complete, and when it does
the window is at its target and nothing else of the shadow has changed: the display value held during the shift is
restored. -/
def Obligations.WindowShiftEndsAtItsTarget : Prop :=
  ∀ (s : State) (target perStep : Nat) (strategy : Strategy) (during : Switch),
    Asked s (.shiftDisplayToPos target strategy during perStep) [] → target < lineCapacity s.S.lineMode →
    s.ShadowOk → CanSend s →
      (target = s.S.displayOffset → step s = .next { s with requests := [], result := .nothing })
        ∧ (target ≠ s.S.displayOffset →
          CanComplete s ∧ ∀ t, RunsToIdle s t → t.S = { s.S with displayOffset := target })

/-- `typewriter` (R171): it can complete; and when it does, each character was sent as its byte, in order, and the cursor
has taken one step per character; nothing else of the shadow has changed. -/
def Obligations.TypewriterWritesItsText : Prop :=
  ∀ (s : State) (text : List Char) (d : Nat),
    Asked s (.typewriter text d) [] → s.S.ramType = .ddram → CanSend s →
      CanComplete s
        ∧ ∀ t, RunsToIdle s t →
          t.S = { s.S with
              cursorPos := Nat.iterate (fun p => stepPos s.S.lineMode p s.S.direction) text.length s.S.cursorPos }
            ∧ sentBetween s t = text.map fun ch => dataWrite (charByte ch)

/-- Both split-flap strategies (R174, R175, R176) can complete on a printable text; and when they do, the Commands sent are
those of the strategy's timeline, every byte to its cell in order, the cursor is one step per character on and the cursor
visibility is what it was. -/
def Obligations.SplitFlapEndsPastItsText : Prop :=
  ∀ (s : State) (text : List Char) (maxFlipCount : Option Nat) (perFlip : Nat),
    (∀ ch ∈ text, 0x20 ≤ ch.toNat ∧ ch.toNat ≤ 0x7D) → s.S.ramType = .ddram → s.ShadowOk → CanSend s →
    (∀ perChar, Asked s (.splitFlapSequential text maxFlipCount perFlip (some perChar)) [] →
      CanComplete s
        ∧ ∀ t, RunsToIdle s t →
          t.S = { s.S with cursorPos := cellAt s.S text.length }
            ∧ sentBetween s t = commandsOf (sequentialItems s.S text maxFlipCount perFlip perChar))
    ∧ (Asked s (.splitFlapSimultaneous text maxFlipCount perFlip) [] →
      CanComplete s
        ∧ ∀ t, RunsToIdle s t →
          t.S = { s.S with cursorPos := cellAt s.S text.length }
            ∧ sentBetween s t = commandsOf (simultaneousItems s.S text maxFlipCount perFlip))

/-- The simultaneous split-flap leaves each cell with its own target (R176, conflict C2): whenever it runs to its end, of
the Commands it has sent, the data bytes that follow a cell's address are, in order, those from the common start to the
code of the cell's character, and no other. The text is at most as long as the display has cells. -/
def Obligations.SharedScanEndsEachCellAtItsTarget : Prop :=
  ∀ (s t : State) (text : List Char) (m : Option Nat) (perFlip i : Nat) (ch : Char),
    Asked s (.splitFlapSimultaneous text m perFlip) [] → s.ShadowOk →
    text.length ≤ lineCapacity s.S.lineMode * rowCount s.S.lineMode → text[i]? = some ch → RunsToIdle s t →
      bytesTo s.S (cellAt s.S i) (sentBetween s t)
        = (codes (startByte (text.foldl (fun n x => min n x.toNat) 0x7D) m) ch.toNat).map (BitVec.ofNat 8)

/-- The delays and Commands of the macros, in order, each Command after its busy poll (R171, R174, R176, R180, R183,
R236): typewriter, both split-flaps, window shift, counted blink. That the per-flip delay of the simultaneous split-flap
comes after the writes of its scan step is the model's choice (log entry 24): R176 and V8 put it there, R170 and D30 put
every delay before its action. -/
def Obligations.MacrosFollowTheirTimelines : Prop :=
  ∀ (s t : State), RunsToIdle s t →
    (∀ text d, Asked s (.typewriter text d) [] → Follows s (typewriterItems text d) (callsBetween s t))
    ∧ (∀ text m f c, Asked s (.splitFlapSequential text m f (some c)) [] → s.ShadowOk →
        Follows s (sequentialItems s.S text m f c) (callsBetween s t))
    ∧ (∀ text m f, Asked s (.splitFlapSimultaneous text m f) [] → s.ShadowOk →
        Follows s (simultaneousItems s.S text m f) (callsBetween s t))
    ∧ (∀ target strategy during perStep, Asked s (.shiftDisplayToPos target strategy during perStep) [] → s.ShadowOk →
        target ≠ s.S.displayOffset →
        Follows s
          (windowItems s.S during (planShift s.params.offsetStepLtr s.S.lineMode s.S.displayOffset target strategy).1
            (planShift s.params.offsetStepLtr s.S.lineMode s.S.displayOffset target strategy).2 perStep)
          (callsBetween s t))
    ∧ (∀ count interval, Asked s (.fullDisplayBlink count interval) [] → 0 < count →
        Follows s (blinkItems s.S count interval) (callsBetween s t))

/-- `full_display_blink` with a count (R183): it can complete; and when it does, it has sent the toggled and the
original Display on/off byte that many times, and the shadow is what it was. -/
def Obligations.CountedBlinkRestoresTheDisplay : Prop :=
  ∀ (s : State) (count interval : Nat),
    Asked s (.fullDisplayBlink count interval) [] → 0 < count → CanSend s →
      CanComplete s
        ∧ ∀ t, RunsToIdle s t →
          t.S = s.S
            ∧ sentBetween s t = (List.replicate count
                [instruction (displayControlByte
                    { s.S with displayOn := match s.S.displayOn with | .on => .off | .off => .on }),
                  instruction (displayControlByte s.S)]).flatten

/-- The bridge's protocol (R109, R110): from construction, whatever the host asks and the environment answers, the
first Command delivered is the bootstrap, and no Function set with W = 1 is ever delivered. -/
def Obligations.BridgeProtocolIsNeverViolated : Prop :=
  ∀ (p : Params) (requests : List Request) (env : Env) (k : Nat) (t : State),
    p.transport = .i2cBridge → Runs k { State.construct p with requests := requests, env := env } t →
      (t.delivered = [] ∨ ∃ cs, t.delivered = halfCommand :: cs)
        ∧ (t.X.firstCommandSent = false → t.delivered = [])
        ∧ ∀ b : Byte, instruction b ∈ t.delivered → ¬ (0x30 ≤ b.toNat ∧ b.toNat < 0x40)
end

