-- ==== Sys2Proof/Laws/State.lean ====
section
/-! SUPPORT. What each update of the state leaves alone, one lemma per field, and the halves of the update that do
change it. -/

namespace Sys2Proof.Machine

section
variable (s : State)

@[simp] theorem raise_params (e : FatalError) : (s.raise e).params = s.params := rfl
@[simp] theorem raise_S (e : FatalError) : (s.raise e).S = s.S := rfl
@[simp] theorem raise_pollInterval (e : FatalError) : (s.raise e).pollInterval = s.pollInterval := rfl
@[simp] theorem raise_X (e : FatalError) : (s.raise e).X = s.X := rfl
@[simp] theorem raise_seq (e : FatalError) : (s.raise e).seq = s.seq := rfl
@[simp] theorem raise_rx (e : FatalError) : (s.raise e).rx = s.rx := rfl
@[simp] theorem raise_sent (e : FatalError) : (s.raise e).sent = s.sent := rfl
@[simp] theorem raise_result (e : FatalError) : (s.raise e).result = s.result := rfl
@[simp] theorem raise_requests (e : FatalError) : (s.raise e).requests = s.requests := rfl
@[simp] theorem raise_env (e : FatalError) : (s.raise e).env = s.env := rfl
@[simp] theorem raise_trace (e : FatalError) : (s.raise e).trace = s.trace := rfl
@[simp] theorem raise_delivered (e : FatalError) : (s.raise e).delivered = s.delivered := rfl
@[simp] theorem raise_fatal (e : FatalError) : (s.raise e).fatal = some e := rfl

@[simp] theorem push_params (ms : List Micro) : (s.push ms).params = s.params := rfl
@[simp] theorem push_S (ms : List Micro) : (s.push ms).S = s.S := rfl
@[simp] theorem push_pollInterval (ms : List Micro) : (s.push ms).pollInterval = s.pollInterval := rfl
@[simp] theorem push_X (ms : List Micro) : (s.push ms).X = s.X := rfl
@[simp] theorem push_fatal (ms : List Micro) : (s.push ms).fatal = s.fatal := rfl
@[simp] theorem push_rx (ms : List Micro) : (s.push ms).rx = s.rx := rfl
@[simp] theorem push_sent (ms : List Micro) : (s.push ms).sent = s.sent := rfl
@[simp] theorem push_result (ms : List Micro) : (s.push ms).result = s.result := rfl
@[simp] theorem push_requests (ms : List Micro) : (s.push ms).requests = s.requests := rfl
@[simp] theorem push_env (ms : List Micro) : (s.push ms).env = s.env := rfl
@[simp] theorem push_trace (ms : List Micro) : (s.push ms).trace = s.trace := rfl
@[simp] theorem push_delivered (ms : List Micro) : (s.push ms).delivered = s.delivered := rfl
@[simp] theorem push_seq (ms : List Micro) : (s.push ms).seq = s.seq.push ms := rfl

@[simp] theorem emit_params (c : Call) (a : Answer) : (s.emit c a).params = s.params := rfl
@[simp] theorem emit_S (c : Call) (a : Answer) : (s.emit c a).S = s.S := rfl
@[simp] theorem emit_pollInterval (c : Call) (a : Answer) : (s.emit c a).pollInterval = s.pollInterval := rfl
@[simp] theorem emit_X (c : Call) (a : Answer) : (s.emit c a).X = s.X := rfl
@[simp] theorem emit_fatal (c : Call) (a : Answer) : (s.emit c a).fatal = s.fatal := rfl
@[simp] theorem emit_rx (c : Call) (a : Answer) : (s.emit c a).rx = s.rx := rfl
@[simp] theorem emit_sent (c : Call) (a : Answer) : (s.emit c a).sent = s.sent := rfl
@[simp] theorem emit_result (c : Call) (a : Answer) : (s.emit c a).result = s.result := rfl
@[simp] theorem emit_requests (c : Call) (a : Answer) : (s.emit c a).requests = s.requests := rfl
@[simp] theorem emit_delivered (c : Call) (a : Answer) : (s.emit c a).delivered = s.delivered := rfl
@[simp] theorem emit_trace (c : Call) (a : Answer) : (s.emit c a).trace = s.trace ++ [{ call := c, answer := a }] := rfl
@[simp] theorem emit_seq (c : Call) (a : Answer) : (s.emit c a).seq = s.seq.afterEvent := rfl
@[simp] theorem emit_env (c : Call) (a : Answer) : (s.emit c a).env = s.env.afterEvent := rfl

@[simp] theorem complete_params (c : Call) : (s.complete c).params = s.params := by cases c <;> rfl
@[simp] theorem complete_S (c : Call) : (s.complete c).S = s.S := by cases c <;> rfl
@[simp] theorem complete_pollInterval (c : Call) : (s.complete c).pollInterval = s.pollInterval := by cases c <;> rfl
@[simp] theorem complete_fatal (c : Call) : (s.complete c).fatal = s.fatal := by cases c <;> rfl
@[simp] theorem complete_sent (c : Call) : (s.complete c).sent = s.sent := by cases c <;> rfl
@[simp] theorem complete_result (c : Call) : (s.complete c).result = s.result := by cases c <;> rfl
@[simp] theorem complete_requests (c : Call) : (s.complete c).requests = s.requests := by cases c <;> rfl
@[simp] theorem complete_delivered (c : Call) : (s.complete c).delivered = s.delivered := by cases c <;> rfl
@[simp] theorem complete_seq (c : Call) : (s.complete c).seq = s.seq.afterEvent := by cases c <;> rfl

@[simp] theorem perform_params (c : Call) : (s.perform c).params = s.params := by unfold State.perform; split <;> simp
@[simp] theorem perform_S (c : Call) : (s.perform c).S = s.S := by unfold State.perform; split <;> simp
@[simp] theorem perform_pollInterval (c : Call) : (s.perform c).pollInterval = s.pollInterval := by unfold State.perform; split <;> simp
@[simp] theorem perform_sent (c : Call) : (s.perform c).sent = s.sent := by unfold State.perform; split <;> simp
@[simp] theorem perform_result (c : Call) : (s.perform c).result = s.result := by unfold State.perform; split <;> simp
@[simp] theorem perform_requests (c : Call) : (s.perform c).requests = s.requests := by unfold State.perform; split <;> simp
@[simp] theorem perform_delivered (c : Call) : (s.perform c).delivered = s.delivered := by unfold State.perform; split <;> simp

@[simp] theorem wire_params (w : Wire) : (s.wire w).params = s.params := by cases w <;> simp [State.wire]
@[simp] theorem wire_S (w : Wire) : (s.wire w).S = s.S := by cases w <;> simp [State.wire]
@[simp] theorem wire_pollInterval (w : Wire) : (s.wire w).pollInterval = s.pollInterval := by cases w <;> simp [State.wire]
@[simp] theorem wire_result (w : Wire) : (s.wire w).result = s.result := by cases w <;> simp [State.wire]
@[simp] theorem wire_requests (w : Wire) : (s.wire w).requests = s.requests := by cases w <;> simp [State.wire]

@[simp] theorem runWires_params (ws : List Wire) : (State.runWires ws s).params = s.params := by
  induction ws generalizing s with
  | nil => rfl
  | cons w ws ih =>
    simp only [State.runWires]
    split
    · simp
    · rw [ih]; simp

@[simp] theorem runWires_S (ws : List Wire) : (State.runWires ws s).S = s.S := by
  induction ws generalizing s with
  | nil => rfl
  | cons w ws ih =>
    simp only [State.runWires]
    split
    · simp
    · rw [ih]; simp

@[simp] theorem runWires_pollInterval (ws : List Wire) : (State.runWires ws s).pollInterval = s.pollInterval := by
  induction ws generalizing s with
  | nil => rfl
  | cons w ws ih =>
    simp only [State.runWires]
    split
    · simp
    · rw [ih]; simp

@[simp] theorem runWires_result (ws : List Wire) : (State.runWires ws s).result = s.result := by
  induction ws generalizing s with
  | nil => rfl
  | cons w ws ih =>
    simp only [State.runWires]
    split
    · simp
    · rw [ih]; simp

@[simp] theorem runWires_requests (ws : List Wire) : (State.runWires ws s).requests = s.requests := by
  induction ws generalizing s with
  | nil => rfl
  | cons w ws ih =>
    simp only [State.runWires]
    split
    · simp
    · rw [ih]; simp

@[simp] theorem sendNow_params (c : Command) : (s.sendNow c).params = s.params := by unfold State.sendNow; split <;> simp
@[simp] theorem sendNow_S (c : Command) : (s.sendNow c).S = s.S := by unfold State.sendNow; split <;> simp
@[simp] theorem sendNow_pollInterval (c : Command) : (s.sendNow c).pollInterval = s.pollInterval := by unfold State.sendNow; split <;> simp
@[simp] theorem sendNow_result (c : Command) : (s.sendNow c).result = s.result := by unfold State.sendNow; split <;> simp
@[simp] theorem sendNow_requests (c : Command) : (s.sendNow c).requests = s.requests := by unfold State.sendNow; split <;> simp

@[simp] theorem settle_params : (s.settle).params = s.params := by unfold State.settle; split <;> rfl
@[simp] theorem settle_S : (s.settle).S = s.S := by unfold State.settle; split <;> rfl
@[simp] theorem settle_pollInterval : (s.settle).pollInterval = s.pollInterval := by unfold State.settle; split <;> rfl
@[simp] theorem settle_X : (s.settle).X = s.X := by unfold State.settle; split <;> rfl
@[simp] theorem settle_fatal : (s.settle).fatal = s.fatal := by unfold State.settle; split <;> rfl
@[simp] theorem settle_rx : (s.settle).rx = s.rx := by unfold State.settle; split <;> rfl
@[simp] theorem settle_sent : (s.settle).sent = s.sent := by unfold State.settle; split <;> rfl
@[simp] theorem settle_result : (s.settle).result = s.result := by unfold State.settle; split <;> rfl
@[simp] theorem settle_requests : (s.settle).requests = s.requests := by unfold State.settle; split <;> rfl
@[simp] theorem settle_env : (s.settle).env = s.env := by unfold State.settle; split <;> rfl
@[simp] theorem settle_trace : (s.settle).trace = s.trace := by unfold State.settle; split <;> rfl
@[simp] theorem settle_delivered : (s.settle).delivered = s.delivered := by unfold State.settle; split <;> rfl

end

end Sys2Proof.Machine
end

