-- ==== Sys2Proof/Laws/Ops.lean ====
section
/-! SUPPORT. What each shared operation can do: one lemma for each, which proofs cite instead of unfolding it. -/

namespace Sys2Proof.Machine

/-! ## Events and wire sequences -/

/-- An event fails and is `IoFault` with nothing emitted (R114), or it succeeds. -/
theorem perform_cases (s : State) (c : Call) :
    (s.env.failIn = some 0 ∧ s.perform c = s.raise (.ioFault c))
      ∨ (s.env.failIn ≠ some 0 ∧ s.perform c = s.complete c) := by
  by_cases h : s.env.failIn = some 0
  · exact .inl ⟨h, by simp [State.perform, Env.failsNow, h]⟩
  · exact .inr ⟨h, by simp [State.perform, Env.failsNow, h]⟩

/-- A wire element that does not halt the block: the event succeeded, or the element is silent. -/
theorem wire_eq_of_not_halted {s : State} {w : Wire} (h : (s.wire w).fatal = none) :
    s.wire w = match w with
      | .call c => s.complete c
      | .sentFirst => { s with X := { s.X with firstCommandSent := true } }
      | .ret c r => { s with sent := readBackByte s.rx r, delivered := s.delivered ++ [c] } := by
  cases w with
  | call c =>
    rcases perform_cases s c with ⟨_, h'⟩ | ⟨_, h'⟩
    · simp [State.wire, h'] at h
    · simp [State.wire, h']
  | sentFirst => rfl
  | ret c r => rfl

@[simp] theorem runWires_nil (s : State) : State.runWires [] s = s := rfl

/-- A sequence goes on after an element that leaves the block running. -/
theorem runWires_cons (w : Wire) (ws : List Wire) (s : State) (h : (s.wire w).fatal = none) :
    State.runWires (w :: ws) s = State.runWires ws (s.wire w) := by
  simp [State.runWires, State.halted, h]

/-- A sequence stops at an element that halts the block (R114). -/
theorem runWires_cons_halted (w : Wire) (ws : List Wire) (s : State) (h : (s.wire w).fatal ≠ none) :
    State.runWires (w :: ws) s = s.wire w := by
  have : (s.wire w).fatal.isSome = true := by
    cases hf : (s.wire w).fatal <;> simp_all
  simp [State.runWires, State.halted, this]

/-- Two sequences one after the other, when the first does not halt the block. -/
theorem runWires_append (ws vs : List Wire) (s : State) (h : (State.runWires ws s).fatal = none) :
    State.runWires (ws ++ vs) s = State.runWires vs (State.runWires ws s) := by
  induction ws generalizing s with
  | nil => rfl
  | cons w ws ih =>
    by_cases hw : (s.wire w).fatal = none
    · rw [List.cons_append, runWires_cons _ _ _ hw, runWires_cons _ _ _ hw]
      exact ih _ (by rwa [runWires_cons _ _ _ hw] at h)
    · rw [runWires_cons_halted _ _ _ hw] at h
      exact absurd h hw

/-- `send`: the fatal error of its checks, or its wire sequence (R100). -/
theorem sendNow_cases (s : State) (c : Command) :
    (∃ e, wiresOf s c = .error e ∧ s.sendNow c = s.raise e)
      ∨ ∃ ws, wiresOf s c = .ok ws ∧ s.sendNow c = State.runWires ws { s with rx := [] } := by
  cases h : wiresOf s c with
  | error e => exact .inl ⟨e, rfl, by simp [State.sendNow, h]⟩
  | ok ws => exact .inr ⟨ws, rfl, by simp [State.sendNow, h]⟩

/-! ## Requests and steps -/

/-- A halted block delivers nothing (R28). -/
theorem deliver_halted {s : State} {e : FatalError} (c : Except FatalError Command) (h : s.fatal = some e) :
    deliver c s = .fault (.halted e) := by
  simp [deliver, h]

/-- A block that is not halted answers every delivery with a next state. -/
theorem deliver_next (c : Except FatalError Command) {s : State} (h : s.fatal = none) :
    ∃ t, deliver c s = .next t := by
  unfold deliver
  simp only [h]
  cases c with
  | error e => exact ⟨_, rfl⟩
  | ok c => dsimp only; split <;> exact ⟨_, rfl⟩

/-- A delivery leaves the shadow alone (R56, R100). -/
theorem deliver_shadow {c : Except FatalError Command} {s t : State} (h : deliver c s = .next t) :
    t.S = s.S ∧ t.params = s.params ∧ t.pollInterval = s.pollInterval ∧ t.requests = s.requests := by
  unfold deliver at h
  split at h
  · cases h
  · cases c with
    | error e => cases h; simp
    | ok c =>
      dsimp only at h
      split at h <;> cases h <;> simp

/-- An instruction requested by itself is its Command, delivered (R7, R60). -/
theorem exec_eq_deliver (i : Instr) (s : State) : exec i s = deliver (encodeCommand i) s := by
  cases i <;> rfl

/-- A halted block has no step (R28). -/
theorem step_halted {s : State} {e : FatalError} (h : s.fatal = some e) : step s = .fault (.halted e) := by
  simp [step, h]

/-- An idle block with no request stays as it is. -/
theorem step_idle_nil {s : State} (h : s.fatal = none) (hi : s.seq = .idle) (hr : s.requests = []) :
    step s = .next s := by
  simp [step, h, hi, hr]

/-- An idle block takes the oldest request (R29). -/
theorem step_idle_cons {s : State} {r : Request} {rs : List Request} (h : s.fatal = none) (hi : s.seq = .idle)
    (hr : s.requests = r :: rs) : step s = { s with requests := rs }.take r := by
  simp [step, h, hi, hr]

/-- A busy block does one action. -/
theorem step_running {s : State} {n : Nat} {st : Option InitStage} {m : Micro} {ms : List Micro}
    (h : s.fatal = none) (hq : s.seq = .running n st (m :: ms)) :
    step s = .next (({ s with seq := .running n st ms }.micro m).settle) := by
  simp [step, h, hq]

/-- An operation requested of a block: its fatal error (R191), or its assignments and actions. -/
theorem begin_cases (s : State) (o : Op) :
    (∃ e, startOp o s = .error e ∧ s.begin o = s.raise e)
      ∨ ∃ s' ms, startOp o s = .ok (s', ms) ∧ s.begin o = s'.push ms := by
  cases h : startOp o s with
  | error e => exact .inl ⟨e, rfl, by simp [State.begin, h]⟩
  | ok p => exact .inr ⟨p.1, p.2, rfl, by simp [State.begin, h]⟩

/-- A step answers a next state, or the block was halted before it. -/
theorem step_total (s : State) : (∃ t, step s = .next t) ∨ ∃ e, s.fatal = some e ∧ step s = .fault (.halted e) := by
  cases h : s.fatal with
  | some e => exact .inr ⟨e, rfl, step_halted h⟩
  | none =>
    left
    cases hq : s.seq with
    | idle =>
      cases hr : s.requests with
      | nil => exact ⟨s, step_idle_nil h hq hr⟩
      | cons r rs =>
        rw [step_idle_cons h hq hr]
        cases r with
        | op o => exact ⟨_, rfl⟩
        | word w =>
          simp only [State.take]
          split
          · rw [exec_eq_deliver]
            exact deliver_next _ h
          · exact deliver_next _ h
    | running n st rest =>
      cases rest with
      | nil => exact ⟨{ s with seq := .idle }, by simp [step, h, hq]⟩
      | cons m ms => exact ⟨_, step_running h hq⟩

/-! ## The sequencer's actions -/

theorem eventsOnly_append (ms ns : List Micro) : eventsOnly (ms ++ ns) = (eventsOnly ms && eventsOnly ns) := by
  induction ms using eventsOnly.induct <;> simp_all [eventsOnly]

theorem eventsOnly_flatMap {α : Type} (f : α → List Micro) (xs : List α) (h : ∀ x, eventsOnly (f x) = true) :
    eventsOnly (xs.flatMap f) = true := by
  induction xs with
  | nil => rfl
  | cons x xs ih => simp [eventsOnly_append, h, ih]

theorem eventsOnly_flatten_replicate (n : Nat) (ms : List Micro) (h : eventsOnly ms = true) :
    eventsOnly (List.replicate n ms).flatten = true := by
  induction n with
  | zero => rfl
  | succ n ih => simp [List.replicate_succ, eventsOnly_append, h, ih]

theorem eventsOnly_map {α : Type} (f : α → Command) (xs : List α) :
    eventsOnly (xs.map fun x => .waitIdle (f x)) = true := by
  induction xs with
  | nil => rfl
  | cons x xs ih => simpa [eventsOnly] using ih

/-- Actions that hold no `send` in progress keep the bridge's protocol wherever the flag and the deliveries agree. -/
theorem protocolPending_of_eventsOnly {ms : List Micro} {b : Bool} (h : eventsOnly ms = true) :
    protocolPending b b ms = true := by
  induction ms using eventsOnly.induct <;> simp_all [eventsOnly, protocolPending]

theorem eventsOnly_hidingCursor (S : DisplayState) (ms : List Micro) :
    eventsOnly (hidingCursor S ms) = eventsOnly ms := by
  simp [hidingCursor, eventsOnly, eventsOnly_append]

theorem eventsOnly_scanStep (cells : List (Pos × Nat)) (b perFlip : Nat) :
    eventsOnly (scanStep cells b perFlip) = true := by
  rw [scanStep, eventsOnly_append, eventsOnly_flatMap _ _ fun _ => rfl]
  rfl

/-- What the start of an operation can do, if no check of it fails: it assigns fields of `S`, `X.backlight` and the
result, puts actions that hold no `send` in progress, and leaves everything else. -/
theorem startOp_frame {o : Op} {s t : State} {ms : List Micro} (h : startOp o s = .ok (t, ms)) :
    eventsOnly ms = true ∧ t.S.dataWidth = s.S.dataWidth ∧ t.X.level = s.X.level ∧ t.X.addr = s.X.addr
      ∧ t.X.firstCommandSent = s.X.firstCommandSent
      ∧ t = { s with S := t.S, X := { s.X with backlight := t.X.backlight }, result := t.result } := by
  cases o <;>
    simp only [startOp, startEncode, startSend, startDelayThenSend, startWaitUntilIdleThenSend, startIsBusy,
      startGetBacklight, startSetBacklight, startGet, startCalculatePosByOffset, startSetCursorPos, startSetCgramAddr,
      startShiftCursorOrDisplay, startSetLineMode, startSetFont, startSetDisplayOn, startSetCursorOn,
      startSetCursorBlink, startSetDirection, startSetShiftType, startInit, startClearDisplay, startReturnHome,
      startWriteU8ToCur, startReadU8FromCur, startWriteCharToCur, startWriteGraphToCgram, startReadByteFromPos,
      startWriteByteToPos, startTypewriter, startSplitFlapSequential, startSplitFlapSimultaneous,
      startShiftDisplayToPos, startFullDisplayBlink, assignThenSend, returnNow] at h
  all_goals
    repeat' split at h
    all_goals cases h
    all_goals refine ⟨?_, rfl, rfl, rfl, rfl, rfl⟩
  all_goals first
    | (simp [eventsOnly, event, eventsOnly_append, initFourBit, initEightBit, initTail]; done)
    | (cases hd : s.S.direction <;> simp [forceDirection, eventsOnly, eventsOnly_append, eventsOnly_map]; done)
    | exact eventsOnly_flatMap _ _ fun _ => rfl
    | (rw [eventsOnly_hidingCursor]; exact eventsOnly_flatMap _ _ fun _ => rfl)
    | (rw [eventsOnly_hidingCursor, eventsOnly_append, eventsOnly_flatMap _ _ fun b => eventsOnly_scanStep _ b _]; rfl)
    | (rw [eventsOnly_append, eventsOnly_append, eventsOnly_flatten_replicate _ _ rfl]; rfl)

/-! ## The assumed controller -/

@[simp] theorem takeAll_nil (p : Params) (k : AssumedController) : AssumedController.takeAll p [] k = k := rfl

/-- The controller takes one list of Commands after another. -/
theorem takeAll_append (p : Params) (cs ds : List Command) (k : AssumedController) :
    AssumedController.takeAll p (cs ++ ds) k = AssumedController.takeAll p ds (AssumedController.takeAll p cs k) := by
  induction cs generalizing k with
  | nil => rfl
  | cons c cs ih =>
    simp only [List.cons_append, AssumedController.takeAll]
    split <;> exact ih _

/-- A busy-flag read moves nothing (R41). -/
@[simp] theorem takeAll_busyRead (p : Params) (cs : List Command) (k : AssumedController) :
    AssumedController.takeAll p (encodeReadBusyFlagAndAddress :: cs) k = AssumedController.takeAll p cs k := rfl

end Sys2Proof.Machine
end

