-- ==== Sys2Proof/Laws/PerInstr.lean ====
section
/-! SUPPORT. Statements made once per instruction. `CommandShape`: whatever Command the encoder gives an instruction
has one of the four shapes of R61. -/

namespace Sys2Proof.Laws.CommandShape

/-- The encoder produces no malformed Command (R61). -/
def Statement (i : Instr) : Prop := ∀ c, Machine.encodeCommand i = .ok c → c.wellFormed = true

theorem clearDisplay : Statement .clearDisplay := by rintro c ⟨⟩; rfl

theorem returnHome : Statement .returnHome := by rintro c ⟨⟩; rfl

theorem entryModeSet (dir : Direction) (shift : ShiftType) : Statement (.entryModeSet dir shift) := by
  rintro c ⟨⟩; rfl

theorem displayOnOff (display cursor blink : Switch) : Statement (.displayOnOff display cursor blink) := by
  rintro c ⟨⟩; rfl

theorem cursorOrDisplayShift (shift : ShiftType) (dir : Direction) :
    Statement (.cursorOrDisplayShift shift dir) := by
  rintro c ⟨⟩; rfl

theorem halfFunctionSet : Statement .halfFunctionSet := by rintro c ⟨⟩; rfl

theorem functionSet (width : DataWidth) (line : LineMode) (font : Font) :
    Statement (.functionSet width line font) := by
  rintro c ⟨⟩; rfl

theorem setCGRAM (addr : Nat) : Statement (.setCGRAM addr) := by
  intro c h
  simp only [Machine.encodeCommand, Machine.encodeSetCGRAM] at h
  split at h
  · cases h; rfl
  · cases h

theorem setDDRAM (addr : Nat) : Statement (.setDDRAM addr) := by
  intro c h
  simp only [Machine.encodeCommand, Machine.encodeSetDDRAM] at h
  split at h
  · cases h; rfl
  · cases h

theorem readBusyFlagAndAddress : Statement .readBusyFlagAndAddress := by rintro c ⟨⟩; rfl

theorem writeDataToRAM (byte : Byte) : Statement (.writeDataToRAM byte) := by rintro c ⟨⟩; rfl

theorem readDataFromRAM : Statement .readDataFromRAM := by rintro c ⟨⟩; rfl

end Sys2Proof.Laws.CommandShape
end

