-- ==== Sys2Proof/Tests/Slice0.lean ====
section
/-! SUPPORT. The model's own tests. Expected values are from 95_test_vectors.md (V2 to V9, P1 to P6) and the rules'
examples; the witnesses show that each statement's hypotheses can be met together. -/

namespace Sys2Proof.Tests

open Sys2Proof.Machine Sys2Proof.Claim

/-! ## Small states -/

/-- The reset state on another transport, with the bootstrap done or not. -/
def on (tr : Transport) (first : Bool := true) : State :=
  { State.reset with
    params := { Params.reset with transport := tr }
    X := { State.reset.X with firstCommandSent := first } }

/-- A state with one operation asked for. -/
def ask (s : State) (o : Op) : State := { s with requests := [.op o] }

/-- The reset state with one operation asked for. -/
def asked (o : Op) : State := ask State.reset o

/-- A state whose shadow is in CGRAM space. -/
def inCgram (s : State) : State := { s with S := { s.S with ramType := .cgram } }

/-- A state whose cursor is elsewhere. -/
def at' (s : State) (col row : Nat) : State := { s with S := { s.S with cursorPos := { col := col, row := row } } }

/-- A state in one-line mode. -/
def oneLine (s : State) : State := { s with S := { s.S with lineMode := .oneLine } }

/-- The state a step leads to; the state itself where it leads to none. -/
def after (s : State) : State := match step s with
  | .next t => t
  | .fault _ => s
  | .refused _ => s

/-- The state an instruction leads to; the state itself where it leads to none. -/
def ran (i : Instr) (s : State) : State := match exec i s with
  | .next t => t
  | .fault _ => s
  | .refused _ => s

/-- The bytes written in a trace of the bridge. -/
def written (s : State) : List Byte := s.trace.flatMap fun e => match e.call with
  | .i2cWrite _ bs => bs
  | .i2cWriteRead _ bs _ => bs
  | .pinSet _ _ => []
  | .pinGet _ => []
  | .delayUs _ => []
  | .delayMs _ => []

/-! ## Well-formedness: what each check refuses (R61, R70) -/

theorem test_illformed_cgram_address : (Instr.setCGRAM 64).wellFormed = false := by decide
theorem test_illformed_ddram_address : (Instr.setDDRAM 128).wellFormed = false := by decide
theorem test_wellformed_boundaries : (Instr.setCGRAM 63).wellFormed ∧ (Instr.setDDRAM 127).wellFormed := by decide
theorem test_malformed_write_without_payload :
    (Command.wellFormed { rs := .command, rw := .write, data := .none }) = false := by decide
theorem test_malformed_read_with_byte :
    (Command.wellFormed { rs := .data, rw := .read, data := .bit8 0 }) = false := by decide
theorem test_malformed_read_with_nibble :
    (Command.wellFormed { rs := .command, rw := .read, data := .bit4 0 }) = false := by decide
theorem test_malformed_nibble_of_data :
    (Command.wellFormed { rs := .data, rw := .write, data := .bit4 2 }) = false := by decide

/-! ## Decoding: words written from R63, and what is refused by name (R67) -/

theorem test_decode_clear : decode (.wide 0b0000000001) = .ok .clearDisplay := by decide
theorem test_decode_home : decode (.wide 0b0000000010) = .ok .returnHome := by decide
theorem test_decode_entry_mode :
    decode (.wide 0b0000000110) = .ok (.entryModeSet .leftToRight .cursorOnly)
      ∧ decode (.wide 0b0000000101) = .ok (.entryModeSet .rightToLeft .cursorAndDisplay) := by decide
theorem test_decode_display_control :
    decode (.wide 0b0000001100) = .ok (.displayOnOff .on .off .off)
      ∧ decode (.wide 0b0000001001) = .ok (.displayOnOff .off .off .on) := by decide
theorem test_decode_shift :
    decode (.wide 0b0000011000) = .ok (.cursorOrDisplayShift .cursorAndDisplay .rightToLeft)
      ∧ decode (.wide 0b0000010100) = .ok (.cursorOrDisplayShift .cursorOnly .leftToRight) := by decide
theorem test_decode_half : decode (.short 0b000010) = .ok .halfFunctionSet := by decide
theorem test_decode_function_set :
    decode (.wide 0b0000101000) = .ok (.functionSet .bit4 .twoLine .font5x8)
      ∧ decode (.wide 0b0000110100) = .ok (.functionSet .bit8 .oneLine .font5x11) := by decide
theorem test_decode_set_cgram : decode (.wide 0b0001111111) = .ok (.setCGRAM 63) := by decide
theorem test_decode_set_ddram : decode (.wide 0b0011100111) = .ok (.setDDRAM 0x67) := by decide
theorem test_decode_read_busy : decode (.wide 0b0110000001) = .ok .readBusyFlagAndAddress := by decide
theorem test_decode_write : decode (.wide 0b1001001000) = .ok (.writeDataToRAM 0x48) := by decide
theorem test_decode_read : decode (.wide 0b1100000000) = .ok .readDataFromRAM := by decide
theorem test_decode_zero : decode (.wide 0) = .error .zeroByte := by decide
theorem test_decode_home_low_bit : decode (.wide 0b0000000011) = .error .homeLowBit := by decide
theorem test_decode_shift_low_bits : decode (.wide 0b0000010010) = .error .shiftLowBits := by decide
theorem test_decode_function_low_bits : decode (.wide 0b0000100001) = .error .functionSetLowBits := by decide
theorem test_decode_other_nibble : decode (.short 0b000011) = .error .notHalfFunctionSet := by decide
theorem test_decode_too_wide : decodeTable 16 0x401 = .error .wordTooWide := by decide
theorem test_table_word : decodeTableWord 16 0x0C0 = some (.setDDRAM 0x40) := by decide

/-! ## The instructions, one step after reset (V4) -/

theorem test_half_function_set :
    (ran .halfFunctionSet State.reset).trace =
      [drove .rs .low, drove .rw .low, drove (.dl 0) .low, drove (.dl 1) .high, drove (.dl 2) .low,
        drove (.dl 3) .low, drove .en .high, drove .en .low] := by decide
theorem test_function_set :
    (ran (.functionSet .bit4 .twoLine .font5x8) State.reset).trace.drop 2 =
      [drove (.dl 0) .low, drove (.dl 1) .high, drove (.dl 2) .low, drove (.dl 3) .low, drove .en .high,
        drove .en .low, drove (.dl 0) .low, drove (.dl 1) .low, drove (.dl 2) .low, drove (.dl 3) .high,
        drove .en .high, drove .en .low] := by decide
theorem test_clear_on_eight_lines :
    (ran .clearDisplay (on .parallelEightBit)).trace =
      [drove .rs .low, drove .rw .low, drove (.dl 0) .high, drove (.dl 1) .low, drove (.dl 2) .low,
        drove (.dl 3) .low, drove (.dl 4) .low, drove (.dl 5) .low, drove (.dl 6) .low, drove (.dl 7) .low,
        drove .en .high, drove .en .low] := by decide
theorem test_home_delivered : (ran .returnHome State.reset).delivered = [instruction 0x02] := by decide
theorem test_entry_mode_delivered :
    (ran (.entryModeSet .leftToRight .cursorAndDisplay) State.reset).delivered = [instruction 0b00000111] := by decide
theorem test_display_control_over_bridge :
    written (ran (.displayOnOff .on .off .off) (on .i2cBridge)) = [0x00, 0x04, 0x00, 0xC0, 0xC4, 0xC0] := by decide
theorem test_shift_delivered :
    (ran (.cursorOrDisplayShift .cursorAndDisplay .leftToRight) State.reset).delivered = [instruction 0x1C] := by
  decide
theorem test_write_over_bridge :
    written (ran (.writeDataToRAM 0x48) (on .i2cBridge)) = [0x41, 0x45, 0x41, 0x81, 0x85, 0x81] := by decide
theorem test_busy_read :
    (ran .readBusyFlagAndAddress
      { State.reset with
        env := { State.reset.env with levels := [.low, .low, .low, .high, .low, .low, .low, .low] } }).result
      = .byte 0x80 := by decide
theorem test_data_read_over_bridge :
    let s := on .i2cBridge
    let t := ran .readDataFromRAM { s with env := { s.env with bytes := [0x4E, 0x1E] } }
    t.result = .byte 0x41 ∧ written t = [0xF3, 0xF7, 0xF3, 0xF3, 0xF7, 0xF3] := by decide
theorem test_cgram_address :
    (ran (.setCGRAM 63) State.reset).delivered = [instruction 0x7F]
      ∧ (ran (.setCGRAM 64) State.reset).fatal = some (.cgramAddrOutOfRange 64) := by decide
theorem test_ddram_address :
    (ran (.setDDRAM 0x40) State.reset).delivered = [instruction 0xC0]
      ∧ (ran (.setDDRAM 128) State.reset).fatal = some (.ddramAddrOutOfRange 128) := by decide

/-- V9 row 14: the second `EN=H` of a 4-bit write fails, after the twelve events before it. -/
theorem test_io_fault :
    let t := ran .clearDisplay { State.reset with env := { State.reset.env with failIn := some 12 } }
    t.fatal = some (.ioFault (.pinSet .en .high)) ∧ t.trace.length = 12 ∧ t.X.level.en = .driven .low := by decide

/-! ## Operations, one step each (V3, V5 to V9, P6) -/

theorem test_char_byte :
    (charByte ' ', charByte (Char.ofNat 0x7D), charByte '~', charByte (Char.ofNat 0xE9)) = (0x20, 0x7D, 0xFF, 0xFF) := by
  decide
theorem test_step_pos :
    stepPos .twoLine { col := 39, row := 0 } .leftToRight = { col := 0, row := 1 }
      ∧ stepPos .twoLine { col := 0, row := 0 } .rightToLeft = { col := 39, row := 1 }
      ∧ stepPos .oneLine { col := 79, row := 0 } .leftToRight = { col := 0, row := 0 } := by decide
theorem test_calculate_pos :
    calculatePos .twoLine { col := 38, row := 0 } 3 0 = .ok { col := 1, row := 1 }
      ∧ calculatePos .twoLine { col := 39, row := 1 } 1 1 = .ok { col := 0, row := 1 }
      ∧ calculatePos .twoLine { col := 0, row := 0 } (-1) (-1) = .ok { col := 39, row := 0 }
      ∧ calculatePos .twoLine { col := 0, row := 0 } 40 0 = .error (.offsetOutOfRange (.delta 40 0))
      ∧ calculatePos .oneLine { col := 0, row := 0 } (-1) 0 = .ok { col := 79, row := 0 } := by decide
theorem test_plans :
    planShift .plusOne .twoLine 0 39 .shortest = (1, .rightToLeft)
      ∧ planShift .plusOne .twoLine 0 20 .shortest = (20, .leftToRight)
      ∧ planShift .plusOne .twoLine 30 10 .shortest = (20, .rightToLeft)
      ∧ planShift .plusOne .twoLine 35 5 .noBoundaryCross = (30, .rightToLeft)
      ∧ planShift .plusOne .twoLine 0 1 .forceLeft = (39, .rightToLeft) := by decide
theorem test_offset_shift :
    (after (asked (.shiftCursorOrDisplay .cursorAndDisplay .rightToLeft))).S.displayOffset = 39 := by decide
theorem test_set_cursor_pos :
    (after (asked (.setCursorPos { col := 5, row := 1 }))).seq
      = .running 0 none [.waitIdle (instruction 0xC5)] := by decide
theorem test_set_font_refused : (after (asked (.setFont .font5x11))).fatal = some .invalidFontLine := by decide
theorem test_set_line_mode_refused :
    (after (ask (at' (oneLine State.reset) 60 0) (.setLineMode .twoLine))).fatal
      = some (.posOutOfRange { col := 60, row := 0 }) := by decide
theorem test_wrong_ram_space :
    (after (ask (inCgram State.reset) (.writeCharToCur 'a'))).fatal = some .wrongRamSpace := by decide
theorem test_construct_five_lines :
    (State.construct { Params.reset with pinCnt := 5 }).fatal = some (.unsupportedPinCount 5) := by decide
theorem test_malformed_command :
    (ran .halfFunctionSet (on .parallelEightBit)).fatal = some .malformedCommand := by decide
theorem test_flip_range :
    ascending (startByte 0x41 (some 2)) 0x41 = [0x3F, 0x40, 0x41] ∧ startByte 0x41 (some 200) = 0x20 := by decide

/-- P6 on the bridge: the first Command of `clear_display` is a busy read, refused with an empty trace. -/
theorem test_bridge_first_command :
    let t := after (after (after (ask (on .i2cBridge false) .clearDisplay)))
    t.fatal = some .i2cFirstCommandNotBootstrap ∧ t.trace = [] := by decide

/-- A fetched word is run whole by the next step. -/
theorem test_fetched_word :
    (after (State.reset.withFetchWord 8 0b000010)).delivered = [halfCommand]
      ∧ (after (State.reset.withFetchWord 16 0x0C0)).delivered = [instruction 0xC0] := by decide

/-! ## Witnesses -/

theorem witness_wellformed : (Instr.setDDRAM 127).wellFormed = true := by decide
theorem witness_decodes : decode (.wide 0b0110000001) = .ok .readBusyFlagAndAddress := by decide
theorem witness_payload :
    payload (.setCGRAM 63) = some (.command, 0x7F) ∧ payload (.setDDRAM 127) = some (.command, 0xFF)
      ∧ payload (.writeDataToRAM 0) = some (.data, 0) ∧ readFrom .readDataFromRAM = some .data
      ∧ readFrom .readBusyFlagAndAddress = some .command := by simp [payload, readFrom]

theorem witness_allows (n : Nat) : Allows n State.reset.env := by
  intro k h
  cases h

/-- FourBitWritesComplete, FourBitHalfFunctionSetCompletes, StepRunsTheDecodedInstruction. -/
theorem witness_four_bit :
    State.reset.fatal = none ∧ State.reset.params.transport = .parallelFourBit ∧ Allows 14 State.reset.env
      ∧ payload .clearDisplay = some (.command, 0x01) :=
  ⟨rfl, rfl, witness_allows 14, rfl⟩

/-- FourBitReadsComplete. -/
theorem witness_four_bit_read :
    let s : State := { State.reset with env := { State.reset.env with levels := List.replicate 8 .high } }
    s.fatal = none ∧ s.params.transport = .parallelFourBit ∧ Allows 22 s.env
      ∧ drawLevels 8 s.env = [.high, .high, .high, .high, .high, .high, .high, .high] :=
  ⟨rfl, rfl, witness_allows 22, rfl⟩

/-- EightBitWritesComplete, EightBitReadsComplete. -/
theorem witness_eight_bit :
    let s : State :=
      { on .parallelEightBit with env := { State.reset.env with levels := List.replicate 8 .low } }
    s.fatal = none ∧ s.params.transport = .parallelEightBit ∧ Allows 20 s.env
      ∧ drawLevels 8 s.env = [.low, .low, .low, .low, .low, .low, .low, .low] :=
  ⟨rfl, rfl, witness_allows 20, rfl⟩

/-- BridgeWritesComplete, BridgeHalfFunctionSetCompletes, BridgeReadsComplete. -/
theorem witness_bridge :
    let s : State := { on .i2cBridge with env := { State.reset.env with bytes := [0x8E, 0x0E] } }
    s.fatal = none ∧ s.params.transport = .i2cBridge ∧ s.X.firstCommandSent = true ∧ Allows 6 s.env
      ∧ drawBytes 2 s.env = [0x8E, 0x0E] ∧ ∀ line font, Instr.returnHome ≠ .functionSet .bit8 line font :=
  ⟨rfl, rfl, rfl, witness_allows 6, rfl, by intros; simp⟩

/-- StepRunsTheDecodedInstruction, UndecodedWordIsDeliveredUnchanged. -/
theorem witness_words :
    let s := State.reset.withFetchWord 16 0x001
    let u : State := { State.reset with requests := [.word (.wide (0b00#2 ++ 0#8))] }
    s.fatal = none ∧ s.seq = .idle ∧ s.requests = [.word (.wide 0x001)] ∧ decode (.wide 0x001) = .ok .clearDisplay
      ∧ u.fatal = none ∧ u.seq = .idle ∧ u.params.transport = .parallelFourBit
      ∧ ∀ i, decode (.wide (0b00#2 ++ 0#8)) ≠ .ok i :=
  ⟨rfl, rfl, rfl, rfl, rfl, rfl, rfl, by intro i h; cases h⟩

/-- RefusedInstructionsEmitNothing, one witness a clause. -/
theorem witness_refused :
    ((on .parallelEightBit).params.transport = .parallelEightBit ∧ (on .parallelEightBit).fatal = none)
      ∧ ((on .i2cBridge false).X.firstCommandSent = false ∧ (Instr.setCGRAM 63).wellFormed = true
        ∧ Instr.setCGRAM 63 ≠ .halfFunctionSet)
      ∧ (on .i2cBridge).X.firstCommandSent = true ∧ 64 ≤ 64 ∧ 128 ≤ 128 := by decide

/-- IoFaultStopsAtTheFailingEvent, at its first and its last event. -/
theorem witness_io_fault :
    ∃ ws, encodeCommand .clearDisplay = .ok (instruction 0x01)
      ∧ wiresOf State.reset (instruction 0x01) = .ok ws ∧ 0 < (callsOf ws).length ∧ 13 < (callsOf ws).length :=
  ⟨_, rfl, rfl, by decide, by decide⟩

/-- InstructionsLeaveTheShadowAlone, EveryStepKeepsWhatIsFixed and the two step invariants. -/
theorem witness_steps :
    (∃ t, exec .clearDisplay State.reset = .next t) ∧ (∃ t, step (asked .clearDisplay) = .next t)
      ∧ (asked .clearDisplay).ShadowOk ∧ (asked .clearDisplay).EnableOk :=
  ⟨⟨_, rfl⟩, ⟨_, rfl⟩, by decide, fun _ => rfl⟩

/-- HaltedBlockDoesNothing. -/
theorem witness_halted :
    (State.reset.raise .wrongRamSpace).fatal = some .wrongRamSpace ∧ constructionError Params.reset = none := by decide

/-- StepPosFollowsItsRule, DdramAddrFollowsItsRule, CalculatePosFollowsItsRule, OffsetsCanBeUndone: boundary values. -/
theorem witness_positions :
    inBounds .twoLine { col := 39, row := 1 } = true ∧ inBounds .oneLine { col := 79, row := 0 } = true
      ∧ inBounds .twoLine { col := 40, row := 0 } = false ∧ inBounds .oneLine { col := 0, row := 1 } = false
      ∧ |(39 : Int)| < 40 ∧ (40 : Int) ≤ |(-40 : Int)| ∧ 1 < |(2 : Int)|
      ∧ calculatePos .twoLine { col := 0, row := 0 } (-39) 0 = .ok { col := 1, row := 1 } := by decide

/-- WindowShiftPlansReachTheirTarget; a tie among its instances. -/
theorem witness_plan :
    0 < lineCapacity .twoLine ∧ 39 < lineCapacity .twoLine ∧ 0 ≠ 39
      ∧ 2 * (planShift .plusOne .twoLine 0 20 .shortest).1 = lineCapacity .twoLine := by decide

/-- Every statement whose hypothesis is that an operation has been asked for. -/
theorem witness_asked (o : Op) : Asked (asked o) o [] := ⟨rfl, rfl, rfl⟩

/-- AddressingOperationsAssignThenSend, FailedChecksChangeNothing, OneInstructionOperationsKeepLockstep: the checks at
their boundaries. -/
theorem witness_checks :
    inBounds State.reset.S.lineMode { col := 39, row := 1 } = true
      ∧ inBounds State.reset.S.lineMode { col := 40, row := 1 } = false ∧ 64 ≤ 64 ∧ 7 < 8
      ∧ 0x1F < (#v[0x20, 0, 0, 0, 0, 0, 0, 0] : Vector Byte 8)[(0 : Fin 8)].toNat
      ∧ lineCapacity State.reset.S.lineMode ≤ 40 ∧ State.reset.S.ramType = .ddram
      ∧ (inCgram State.reset).S.ramType = .cgram
      ∧ ('~'.toNat < 0x20 ∨ 0x7D < '~'.toNat) ∧ (∀ x ∈ ['A', ' '], 0x20 ≤ x.toNat ∧ x.toNat ≤ 0x7D) :=
  ⟨by decide, by decide, by decide, by decide, by decide, by decide, by decide, by decide, by decide,
    by simp⟩

/-- FailedChecksChangeNothing, the widths of `init`. -/
theorem witness_init_width :
    (on .i2cBridge).params.transport = .i2cBridge
      ∧ ({ State.reset.S with dataWidth := .bit8 } : DisplayState).dataWidth = .bit8
      ∧ State.reset.params.transport ≠ .i2cBridge ∧ State.reset.params.pinCnt ≠ 8 := by decide

/-- SettersAssignThenSend: a refused and an accepted font and line mode. -/
theorem witness_setters :
    State.reset.S.lineMode = .twoLine ∧ (oneLine State.reset).S.lineMode = .oneLine
      ∧ positionsWithin .twoLine State.reset.S = true ∧ positionsWithin .twoLine (at' State.reset 60 0).S = false := by
  decide

/-- ShadowReadsHaveNoEffect. -/
theorem witness_get :
    (∃ s' ms, startOp .returnHome State.reset = .ok (s', ms))
      ∧ (Field.rowCount, Result.nat 2) ∈ [(Field.rowCount, Result.nat 2)] :=
  ⟨⟨_, _, rfl⟩, by decide⟩

/-- BacklightFollowsItsRules: the transports with and without the line, the line high and not. -/
theorem witness_backlight :
    (on .i2cBridge).params.transport = .i2cBridge ∧ State.reset.params.hasBacklight = false
      ∧ (State.reset.X.level.set .high .bl).bl = .driven .high ∧ State.reset.X.level.bl ≠ .driven .high := by decide

/-- ConstructionFollowsItsRules, the clauses with hypotheses. -/
theorem witness_construction :
    Params.reset.transport = .parallelFourBit ∧ Params.reset.pinCnt = 4 ∧ (5 : Nat) ≠ 4 ∧ (5 : Nat) ≠ 8
      ∧ ¬ (Params.reset.config.lineMode = .twoLine ∧ Params.reset.config.font = .font5x11) := by decide

/-- EachStepOfAnOperationIsAtMostOneEvent, SequencedSendEqualsWholeSend, PollLoopFollowsItsRule. -/
theorem witness_running :
    let s : State := { State.reset with seq := .running 0 none [.send (instruction 0x01), .stepCursor] }
    let u : State :=
      { State.reset with seq := .running 0 none [.pollTest (instruction 0x01)], sent := some 0x80 }
    s.fatal = none ∧ (∃ t, step s = .next t) ∧ u.fatal = none ∧ (0x80 : Byte).getLsbD 7 = true
      ∧ (0x7F : Byte).getLsbD 7 = false :=
  ⟨rfl, ⟨_, rfl⟩, rfl, rfl, rfl⟩

/-- BusyPollNeverTimesOut, on each transport. -/
theorem witness_busy :
    let waiting (tr : Transport) : State :=
      { ask (on tr) (.waitUntilIdleThenSend (instruction 0x01)) with
        env := { State.reset.env with levels := List.replicate (8 * 2) .high, bytes := [0x80, 0x00, 0x8E, 0x0E] } }
    (∀ tr, Asked (waiting tr) (.waitUntilIdleThenSend (instruction 0x01)) [] ∧ (waiting tr).env.failIn = none)
      ∧ AnswersBusy (waiting .parallelFourBit) 2 ∧ AnswersBusy (waiting .parallelEightBit) 2
      ∧ AnswersBusy (waiting .i2cBridge) 2 := by
  refine ⟨fun _ => ⟨⟨rfl, rfl, rfl⟩, rfl⟩, ?_, ?_, rfl, ?_⟩
  · show ∀ j < 2, _
    decide
  · show ∀ j < 2, _
    decide
  · intro j hj
    match j, hj with
    | 0, _ => exact ⟨0x80, rfl, by decide⟩
    | 1, _ => exact ⟨0x8E, rfl, by decide⟩

/-- R176's scan with `Some(1)`: "AB" starts at 0x40, each cell ends at its own target. -/
theorem test_shared_scan :
    commandsOf (simultaneousItems State.reset.S ['A', 'B'] (some 1) 5) =
      [instruction 0x0C, instruction 0x80, dataWrite 0x40, instruction 0x81, dataWrite 0x40, instruction 0x80,
        dataWrite 0x41, instruction 0x81, dataWrite 0x41, instruction 0x81, dataWrite 0x42, instruction 0x82,
        instruction 0x0C] := by decide

/-- R50 and R42, on the controller the shadow assumes: Set CGRAM address sets its counter, a data write steps it. -/
theorem test_assumed_cgram_address :
    let k := (AssumedController.unknown.take Params.reset (.entryModeSet .leftToRight .cursorOnly)).take Params.reset
      (.setCGRAM 8)
    (k.ram, k.ac) = (some .cgram, some 8) ∧ (k.take Params.reset (.writeDataToRAM 0)).ac = some 9 := by decide

/-- The run statements: the transport takes Commands, the shadow is in bounds and in lockstep. -/
theorem witness_run :
    CanSend State.reset ∧ CanSend (on .i2cBridge) ∧ State.reset.ShadowOk ∧ State.reset.env.failIn = none
      ∧ initWidthError State.reset = none ∧ allowed State.reset (.writeU8ToCur 0) = true
      ∧ oneInstruction (.writeU8ToCur 0) = true
      ∧ Lockstep State.reset.S
          { lineMode := some .twoLine, direction := some .leftToRight, shift := some .cursorOnly, ram := some .ddram
            ac := some 0, offset := some 0 } :=
  ⟨fun h => Transport.noConfusion h, fun _ => ⟨rfl, rfl⟩, by decide, rfl, rfl, rfl, rfl, rfl, rfl, rfl, rfl,
    rfl, fun _ => rfl⟩

/-- A run to idle: over the bridge, `clear_display` with one idle poll. -/
theorem witness_runs_to_idle :
    ∃ t, RunsToIdle
      { ask (on .i2cBridge) .clearDisplay with env := { State.reset.env with bytes := [0, 0] } } t
        ∧ t.delivered = [busyRead, instruction 0x01] :=
  ⟨_, ⟨22, rfl, rfl⟩, rfl⟩

/-- A bootstrapped bridge that answers every poll idle, with one operation asked for. -/
def bridged (S : DisplayState) (o : Op) : State :=
  { ask (on .i2cBridge) o with S := S, env := { State.reset.env with bytes := List.replicate 12 0 } }

/-- OneInstructionOperationsKeepLockstep, ShadowHazardsLoseLockstep: the premises met and not met, lockstep at the start of
both, and runs that end. -/
theorem witness_hazards :
    let shifting : DisplayState := { State.reset.S with shiftType := .cursorAndDisplay }
    let backward : DisplayState := { State.reset.S with direction := .rightToLeft }
    let k : AssumedController :=
      { lineMode := some .twoLine, direction := some .leftToRight, shift := some .cursorAndDisplay, ram := some .ddram
        ac := some 0, offset := some 0 }
    lockstepPremise State.reset (.writeU8ToCur 0) = true ∧ lockstepPremise State.reset .clearDisplay = true
      ∧ Lockstep shifting k
      ∧ Lockstep backward { k with direction := some .rightToLeft, shift := some .cursorOnly }
      ∧ (∃ t, RunsToIdle (bridged shifting (.writeU8ToCur 0x41)) t)
      ∧ (∃ t, RunsToIdle (bridged backward .clearDisplay) t)
      ∧ State.reset.params.clearSetsLtr = false ∧ 5 ≠ ddramAddr State.reset.S.lineMode State.reset.S.cursorPos :=
  ⟨rfl, rfl, ⟨rfl, rfl, rfl, rfl, rfl, fun _ => rfl⟩, ⟨rfl, rfl, rfl, rfl, rfl, fun _ => rfl⟩,
    ⟨_, ⟨22, rfl, rfl⟩⟩, ⟨_, ⟨22, rfl, rfl⟩⟩, rfl, by decide⟩

/-- InitFollowsItsTimeline, InitPassesThroughItsStages. -/
theorem witness_init_run :
    ∃ t, RunsToIdle (bridged State.reset.S .init) t :=
  ⟨_, ⟨110, rfl, rfl⟩⟩

/-- MacrosFollowTheirTimelines, a run for each clause. -/
theorem witness_macro_runs :
    (∃ t, RunsToIdle (bridged State.reset.S (.typewriter ['A'] 7)) t)
      ∧ (∃ t, RunsToIdle (bridged State.reset.S (.splitFlapSequential [] none 1 (some 1))) t)
      ∧ (∃ t, RunsToIdle (bridged State.reset.S (.splitFlapSimultaneous [' '] none 1)) t)
      ∧ (∃ t, RunsToIdle (bridged State.reset.S (.shiftDisplayToPos 39 .shortest .off 5)) t)
      ∧ (∃ t, RunsToIdle (bridged State.reset.S (.fullDisplayBlink 1 5)) t) :=
  ⟨⟨_, ⟨26, rfl, rfl⟩⟩, ⟨_, ⟨50, rfl, rfl⟩⟩, ⟨_, ⟨125, rfl, rfl⟩⟩, ⟨_, ⟨75, rfl, rfl⟩⟩, ⟨_, ⟨55, rfl, rfl⟩⟩⟩

/-- TransportOperationsSendAndReturn: a `send` that ends, one that halts, a delay that fails. -/
theorem witness_transport_operations :
    ((State.reset.sendNow halfCommand).fatal = none ∧ ((on .parallelEightBit).sendNow halfCommand).fatal ≠ none)
      ∧ ({ State.reset with env := { State.reset.env with failIn := some 0 } } : State).env.failIn = some 0
      ∧ encodeCommand (.setCGRAM 64) = .error (.cgramAddrOutOfRange 64) := by decide

/-- TransportOperationsSendAndReturn: each malformed shape. -/
theorem witness_malformed :
    Malformed { rs := .command, rw := .write, data := .none } ∧ Malformed { rs := .data, rw := .read, data := .bit8 0 }
      ∧ Malformed { rs := .data, rw := .write, data := .bit4 2 } :=
  ⟨.inl ⟨rfl, rfl⟩, .inr (.inl ⟨rfl, by decide⟩), .inr (.inr ⟨rfl, 2, rfl⟩)⟩

/-- SharedScanEndsEachCellAtItsTarget. -/
theorem witness_scan :
    let s := bridged State.reset.S (.splitFlapSimultaneous [' '] none 1)
    Asked s (.splitFlapSimultaneous [' '] none 1) [] ∧ s.ShadowOk
      ∧ [' '].length ≤ lineCapacity s.S.lineMode * rowCount s.S.lineMode ∧ [' '][0]? = some ' '
      ∧ ∃ t, RunsToIdle s t :=
  ⟨⟨rfl, rfl, rfl⟩, by decide, by decide, rfl, witness_macro_runs.2.2.1⟩

/-- EveryStepKeepsTheBridgeProtocol, EveryStepKeepsAnEndlessBlinkGoing. -/
theorem witness_step_invariants :
    (ask (on .i2cBridge false) .clearDisplay).BridgeOk ∧ (on .i2cBridge false).params.transport = .i2cBridge
      ∧ (after (asked (.fullDisplayBlink 0 5))).Blinks 5 ∧ (after (asked (.fullDisplayBlink 0 5))).fatal = none :=
  ⟨fun _ => ⟨fun _ => rfl, .inl rfl, by decide, fun _ => rfl⟩, rfl, fun _ => ⟨0, none, [], rfl⟩, rfl⟩

/-- BridgeProtocolIsNeverViolated. -/
theorem witness_bridge_run :
    let p : Params := { Params.reset with transport := .i2cBridge }
    p.transport = .i2cBridge ∧ Runs 0 { State.construct p with requests := [], env := State.reset.env }
      { State.construct p with requests := [], env := State.reset.env } :=
  ⟨rfl, rfl⟩

end Sys2Proof.Tests
end

section
/-! What the byte of a character is (R72), one lemma for each side of the printable range. -/
namespace Sys2Proof.Machine

/-- R72, inside the range: the code fits in a byte, so the byte keeps its value. -/
theorem charByte_toNat_of_printable {ch : Char} (lo : 0x20 ≤ ch.toNat) (hi : ch.toNat ≤ 0x7D) :
    (charByte ch).toNat = ch.toNat := by
  have fits : ch.toNat < 2 ^ 8 := by omega
  rw [charByte, if_pos ⟨lo, hi⟩, BitVec.toNat_ofNat, Nat.mod_eq_of_lt fits]

/-- R72, outside the range: the solid block. -/
theorem charByte_of_unprintable {ch : Char} (out : ch.toNat < 0x20 ∨ 0x7D < ch.toNat) : charByte ch = 0xFF := by
  have unprintable : ¬ (0x20 ≤ ch.toNat ∧ ch.toNat ≤ 0x7D) := by omega
  exact if_neg unprintable

/-- Settles O24, from the two sides of the printable range. -/
theorem charByteFollowsItsRule : Obligations.CharByteFollowsItsRule := by
  intro ch
  exact ⟨fun ⟨lo, hi⟩ => charByte_toNat_of_printable lo hi, charByte_of_unprintable⟩

end Sys2Proof.Machine
end

section
/-! One step of the cursor (R133), by its branches: inside the line, and at either end of it. -/
namespace Sys2Proof.Machine

/-- The row a step over either end of the line goes to (R133): the other row, or in one-line mode the only one. -/
def rowOverEnd (m : LineMode) (row : Nat) : Nat :=
  match m with
  | .twoLine => 1 - row
  | .oneLine => 0

theorem rowOverEnd_lt_rowCount (m : LineMode) (row : Nat) : rowOverEnd m row < rowCount m := by
  cases m <;> simp only [rowOverEnd, rowCount] <;> omega

theorem rowOverEnd_rowOverEnd {m : LineMode} {row : Nat} (valid : row < rowCount m) :
    rowOverEnd m (rowOverEnd m row) = row := by
  cases m <;> simp only [rowOverEnd, rowCount] at valid ⊢ <;> omega

theorem lineCapacity_pos (m : LineMode) : 0 < lineCapacity m := by
  cases m <;> decide

theorem inBounds_iff {m : LineMode} {p : Pos} :
    inBounds m p = true ↔ p.col < lineCapacity m ∧ p.row < rowCount m := by
  simp [inBounds]

theorem stepPos_leftToRight_of_lt {m : LineMode} {p : Pos} (inside : p.col < lineCapacity m - 1) :
    stepPos m p .leftToRight = { col := p.col + 1, row := p.row } :=
  if_pos inside

theorem stepPos_leftToRight_of_ge {m : LineMode} {p : Pos} (atEnd : lineCapacity m - 1 ≤ p.col) :
    stepPos m p .leftToRight = { col := 0, row := rowOverEnd m p.row } := by
  cases m <;> exact if_neg (Nat.not_lt.mpr atEnd)

theorem stepPos_rightToLeft_of_pos {m : LineMode} {p : Pos} (inside : 0 < p.col) :
    stepPos m p .rightToLeft = { col := p.col - 1, row := p.row } :=
  if_pos inside

theorem stepPos_rightToLeft_of_eq_zero {m : LineMode} {p : Pos} (atStart : p.col = 0) :
    stepPos m p .rightToLeft = { col := lineCapacity m - 1, row := rowOverEnd m p.row } := by
  have notInside : ¬ p.col > 0 := by omega
  cases m <;> exact if_neg notInside

/-- A step in either direction stays in bounds (R133). -/
theorem inBounds_stepPos {m : LineMode} {p : Pos} (valid : inBounds m p = true) (d : Direction) :
    inBounds m (stepPos m p d) = true := by
  obtain ⟨hcol, hrow⟩ := inBounds_iff.mp valid
  have capacity := lineCapacity_pos m
  rw [inBounds_iff]
  cases d with
  | leftToRight =>
    rcases Nat.lt_or_ge p.col (lineCapacity m - 1) with inside | atEnd
    · rw [stepPos_leftToRight_of_lt inside]
      exact ⟨by dsimp only; omega, hrow⟩
    · rw [stepPos_leftToRight_of_ge atEnd]
      exact ⟨capacity, rowOverEnd_lt_rowCount m p.row⟩
  | rightToLeft =>
    rcases Nat.eq_zero_or_pos p.col with atStart | inside
    · rw [stepPos_rightToLeft_of_eq_zero atStart]
      exact ⟨by dsimp only; omega, rowOverEnd_lt_rowCount m p.row⟩
    · rw [stepPos_rightToLeft_of_pos inside]
      exact ⟨by dsimp only; omega, hrow⟩

/-- A step to the right is undone by a step to the left (R133): inside the line the column goes up and down by one, over
the end the cursor comes back to the last column of the row it left. -/
theorem stepPos_rightToLeft_stepPos_leftToRight {m : LineMode} {p : Pos} (valid : inBounds m p = true) :
    stepPos m (stepPos m p .leftToRight) .rightToLeft = p := by
  obtain ⟨hcol, hrow⟩ := inBounds_iff.mp valid
  rcases Nat.lt_or_ge p.col (lineCapacity m - 1) with inside | atEnd
  · rw [stepPos_leftToRight_of_lt inside, stepPos_rightToLeft_of_pos (Nat.succ_pos p.col)]
    rfl
  · have lastCol : lineCapacity m - 1 = p.col := by omega
    rw [stepPos_leftToRight_of_ge atEnd, stepPos_rightToLeft_of_eq_zero rfl, rowOverEnd_rowOverEnd hrow, lastCol]

/-- Settles O20, from the value of a step in each branch and what the branches keep. -/
theorem stepPosFollowsItsRule : Obligations.StepPosFollowsItsRule := by
  refine ⟨fun _ _ => stepPos_leftToRight_of_lt, fun _ => stepPos_leftToRight_of_ge (m := .twoLine),
    fun _ => stepPos_leftToRight_of_ge (m := .oneLine), fun _ _ => stepPos_rightToLeft_of_pos,
    fun _ => stepPos_rightToLeft_of_eq_zero (m := .twoLine),
    fun _ => stepPos_rightToLeft_of_eq_zero (m := .oneLine), ?_⟩
  intro m p valid
  exact ⟨inBounds_stepPos valid, stepPos_rightToLeft_stepPos_leftToRight valid⟩

end Sys2Proof.Machine
end

section
/-! The step that takes a requested operation, and the operations that only return a value (R33, R148). -/
namespace Sys2Proof.Machine
open Sys2Proof.Claim

/-- The state in which a requested operation begins: its request taken, no event yet, nothing returned. -/
def State.taking (s : State) (rs : List Request) : State :=
  { s with requests := rs, seq := Seq.start, result := .nothing }

/-- An idle, running block with an operation asked for begins it. -/
theorem step_of_asked {s : State} {o : Op} {rs : List Request} (h : Asked s o rs) :
    step s = .next ((s.taking rs).begin o).settle := by
  obtain ⟨running, idle, requested⟩ := h
  rw [step_idle_cons running idle requested]
  rfl

/-- A running block whose operation has no action left becomes idle (R30). -/
theorem settle_of_no_action_left {s : State} {n : Nat} {st : Option InitStage} (running : s.fatal = none)
    (finished : s.seq = .running n st []) : s.settle = { s with seq := .idle } := by
  rw [State.settle, running, finished]

/-- An operation whose start only returns a value ends in the same step, with no event and no other change. -/
theorem step_of_asked_returnNow {s : State} {o : Op} {rs : List Request} {r : Result} (h : Asked s o rs)
    (start : startOp o (s.taking rs) = returnNow (s.taking rs) r) : step s = .next (returned s rs r) := by
  have ⟨running, idle, _⟩ := h
  have started : (s.taking rs).begin o = { s.taking rs with result := r } := by
    rw [State.begin, start]
    rfl
  have running' : ((s.taking rs).begin o).fatal = none := by rw [started]; exact running
  have finished : ((s.taking rs).begin o).seq = .running 0 none [] := by rw [started]; rfl
  rw [step_of_asked h, settle_of_no_action_left running' finished, started, returned, ← idle]
  rfl

/-- Reading a field of the shadow, or a constant derived from it, only returns its value (R148). -/
theorem step_get {s : State} {f : Field} {rs : List Request} (h : Asked s (.get f) rs) :
    step s = .next (returned s rs (fieldValue s.S f)) :=
  step_of_asked_returnNow h rfl

/-- Settles O31: the start of an operation leaves `data_width` (`startOp_frame`), and each field's entry in the list is
its `fieldValue`. -/
theorem shadowReadsHaveNoEffect : Obligations.ShadowReadsHaveNoEffect := by
  constructor
  · intro o s s' ms start
    obtain ⟨_, keepsWidth, _⟩ := startOp_frame start
    exact keepsWidth
  intro s rs f r asked listed
  have value : r = fieldValue s.S f := by
    cases f <;> simp at listed <;> exact listed
  rw [value]
  exact step_get asked

end Sys2Proof.Machine
end

section
/-! The byte at which a split-flap cell starts (R173). -/
namespace Sys2Proof.Machine

/-- With no count a cell starts at the first printable character. -/
@[simp] theorem startByte_none (t : Nat) : startByte t none = 0x20 := rfl

@[simp] theorem startByte_some (t m : Nat) : startByte t (some m) = max 0x20 (t - m) := rfl

/-- Where the count reaches below the target, the subtraction over the naturals stops at 0 and the one over the integers
goes below it; the clamp at 0x20 hides the difference. -/
theorem startByte_some_int (t m : Nat) : (startByte t (some m) : Int) = max 0x20 ((t : Int) - m) := by
  rw [startByte_some]
  obtain above | below := le_total m t
  · rw [Nat.cast_max, Nat.cast_sub above]
    rfl
  · rw [Nat.sub_eq_zero_of_le below]
    omega

theorem startByte_some_zero {t : Nat} (printable : 0x20 ≤ t) : startByte t (some 0) = t := by
  rw [startByte_some, Nat.sub_zero, max_eq_right printable]

/-- Settles O25, from the value of the start byte with no count, with a count and with the count 0. -/
theorem startByteFollowsItsRule : Obligations.StartByteFollowsItsRule :=
  ⟨startByte_none, startByte_some_int, fun _ => startByte_some_zero⟩

end Sys2Proof.Machine
end

section
/-! Words (R62, R63): what the decoder answers for each form of a word, and what a word that decodes looks like. -/
namespace Sys2Proof
open Sys2Proof.Machine Sys2Proof.Claim

theorem extractLsb'_append_byte (h : BitVec 2) (b : Byte) : (h ++ b : BitVec 10).extractLsb' 0 8 = b :=
  BitVec.extractLsb'_append_eq_right

/-- A 10-bit word is its two bits RS and RW before its byte (R62). -/
theorem wide_eq_append (w : BitVec 10) : ∃ (h : BitVec 2) (b : Byte), w = h ++ b :=
  ⟨w.extractLsb' 8 2, w.extractLsb' 0 8, by revert w; decide⟩

theorem decode_instructionWrite (b : Byte) : decode (.wide (0b00#2 ++ b)) = decodeInstructionByte b := by
  simp only [decode, BitVec.getLsbD_append, extractLsb'_append_byte]
  rfl

theorem decode_busyRead (r : Byte) : decode (.wide (0b01#2 ++ r)) = .ok .readBusyFlagAndAddress := by
  simp only [decode, BitVec.getLsbD_append]
  rfl

theorem decode_dataWrite (b : Byte) : decode (.wide (0b10#2 ++ b)) = .ok (.writeDataToRAM b) := by
  simp only [decode, BitVec.getLsbD_append, extractLsb'_append_byte]
  rfl

theorem decode_dataRead (r : Byte) : decode (.wide (0b11#2 ++ r)) = .ok .readDataFromRAM := by
  simp only [decode, BitVec.getLsbD_append]
  rfl

theorem decode_setCGRAM (a : BitVec 6) : decode (.wide (0b0001#4 ++ a)) = .ok (.setCGRAM a.toNat) := by
  revert a
  decide

theorem decode_setDDRAM (a : BitVec 7) : decode (.wide (0b001#3 ++ a)) = .ok (.setDDRAM a.toNat) := by
  revert a
  decide

/-- Settles O1, instruction by instruction: an address in range is the value of its field, the other operands have
finitely many values. -/
theorem decodeOfEncodeIsTheInstruction : Obligations.DecodeOfEncodeIsTheInstruction := by
  intro i wf
  cases i with
  | clearDisplay => rfl
  | returnHome => rfl
  | entryModeSet dir shift => cases dir <;> cases shift <;> rfl
  | displayOnOff display cursor blink => cases display <;> cases cursor <;> cases blink <;> rfl
  | cursorOrDisplayShift shift dir => cases shift <;> cases dir <;> rfl
  | halfFunctionSet => rfl
  | functionSet width line font => cases width <;> cases line <;> cases font <;> rfl
  | setCGRAM addr =>
    have inRange : addr < 2 ^ 6 := of_decide_eq_true wf
    rw [encode, decode_setCGRAM, BitVec.toNat_ofNat, Nat.mod_eq_of_lt inRange]
  | setDDRAM addr =>
    have inRange : addr < 2 ^ 7 := of_decide_eq_true wf
    rw [encode, decode_setDDRAM, BitVec.toNat_ofNat, Nat.mod_eq_of_lt inRange]
  | readBusyFlagAndAddress => rfl
  | writeDataToRAM byte => exact decode_dataWrite byte
  | readDataFromRAM => rfl

/-- An instruction byte that decodes, format by format (R63): its instruction is well formed and is encoded as it. -/
theorem encode_of_decodeInstructionByte {b : Byte} {i : Instr} (decodes : decodeInstructionByte b = .ok i) :
    i.wellFormed = true ∧ encode i = .wide (0b00#2 ++ b) := by
  unfold decodeInstructionByte at decodes
  repeat' split at decodes
  all_goals cases decodes
  all_goals simp only [Instr.wellFormed, encode]
  all_goals revert b; decide

/-- Settles O2, from the four values of RS and RW of a 10-bit word and the one 6-bit word that decodes. -/
theorem encodeOfDecodeIsTheWord : Obligations.EncodeOfDecodeIsTheWord := by
  intro w i decodes
  cases w with
  | wide w =>
    obtain ⟨h, b, rfl⟩ := wide_eq_append w
    obtain rfl | rfl | rfl | rfl : h = 0b00#2 ∨ h = 0b01#2 ∨ h = 0b10#2 ∨ h = 0b11#2 := by
      clear decodes
      revert h
      decide
    · rw [decode_instructionWrite] at decodes
      obtain ⟨wf, word⟩ := encode_of_decodeInstructionByte decodes
      exact ⟨wf, .inl word⟩
    · cases (decode_busyRead b).symm.trans decodes
      exact ⟨rfl, .inr (.inl ⟨rfl, b, rfl⟩)⟩
    · cases (decode_dataWrite b).symm.trans decodes
      exact ⟨rfl, .inl rfl⟩
    · cases (decode_dataRead b).symm.trans decodes
      exact ⟨rfl, .inr (.inr ⟨rfl, b, rfl⟩)⟩
  | short w =>
    simp only [decode] at decodes
    split at decodes
    · next half =>
      cases decodes
      exact ⟨rfl, .inl (congrArg WireWord.short half.symm)⟩
    · cases decodes

/-- Settles O3: each written-out word is evaluated; the reads have any input bits. -/
theorem writtenOutWordsDecode : Obligations.WrittenOutWordsDecode :=
  ⟨rfl, rfl, rfl, rfl, rfl, rfl, rfl, rfl, rfl, rfl, decode_busyRead, decode_dataRead, rfl, rfl, rfl, rfl, rfl, rfl⟩

end Sys2Proof
end

section
/-! The encoder (R80 to R92): its Commands as the statements write them, and their wire words. -/
namespace Sys2Proof.Machine
open Sys2Proof.Claim

theorem ofNat_eq_setWidth {n m a : Nat} (fits : a < 2 ^ n) : BitVec.ofNat m a = (BitVec.ofNat n a).setWidth m := by
  apply BitVec.eq_of_toNat_eq
  simp [Nat.mod_eq_of_lt fits]

/-- R88: a CGRAM address in range joins its opcode bit without a carry. -/
theorem encodeSetCGRAM_of_lt {a : Nat} (inRange : a < 64) :
    encodeSetCGRAM a = .ok (instruction (BitVec.ofNat 8 (0x40 + a))) := by
  have noCarry : ∀ x : BitVec 6, (0x40 : Byte) ||| x.setWidth 8 = 0x40 + x.setWidth 8 := by decide
  rw [encodeSetCGRAM, if_pos inRange, BitVec.ofNat_add, ofNat_eq_setWidth (n := 6) inRange, noCarry]
  rfl

/-- R89: a DDRAM address in range joins its opcode bit without a carry. -/
theorem encodeSetDDRAM_of_lt {a : Nat} (inRange : a < 128) :
    encodeSetDDRAM a = .ok (instruction (BitVec.ofNat 8 (0x80 + a))) := by
  have noCarry : ∀ x : BitVec 7, (0x80 : Byte) ||| x.setWidth 8 = 0x80 + x.setWidth 8 := by decide
  rw [encodeSetDDRAM, if_pos inRange, BitVec.ofNat_add, ofNat_eq_setWidth (n := 7) inRange, noCarry]
  rfl

theorem encodeSetCGRAM_of_ge {a : Nat} (out : 64 ≤ a) : encodeSetCGRAM a = .error (.cgramAddrOutOfRange a) :=
  if_neg (Nat.not_lt.mpr out)

theorem encodeSetDDRAM_of_ge {a : Nat} (out : 128 ≤ a) : encodeSetDDRAM a = .error (.ddramAddrOutOfRange a) :=
  if_neg (Nat.not_lt.mpr out)

/-- `fs_cmd()` (R132). -/
theorem functionSetCommand_eq (S : DisplayState) : S.functionSetCommand = instruction (functionSetByte S) := by
  rw [DisplayState.functionSetCommand, functionSetByte]
  cases S.dataWidth <;> cases S.lineMode <;> cases S.font <;> rfl

/-- `dc_cmd()` (R132). -/
theorem displayControlCommand_eq (S : DisplayState) :
    S.displayControlCommand = instruction (displayControlByte S) := by
  rw [DisplayState.displayControlCommand, displayControlByte]
  cases S.displayOn <;> cases S.cursorOn <;> cases S.cursorBlink <;> rfl

/-- `em_cmd()` (R132). -/
theorem entryModeCommand_eq (S : DisplayState) : S.entryModeCommand = instruction (entryModeByte S) := by
  rw [DisplayState.entryModeCommand, entryModeByte]
  cases S.direction <;> cases S.shiftType <;> rfl

theorem encodeCursorOrDisplayShift_eq (shift : ShiftType) (dir : Direction) :
    encodeCursorOrDisplayShift shift dir = instruction (shiftByte shift dir) := by
  cases shift <;> cases dir <;> rfl

/-- The Commands of the table (95_test_vectors.md V2), instruction by instruction. -/
theorem encodeCommand_of_payload {i : Instr} {rs : RegSel} {b : Byte} (listed : payload i = some (rs, b)) :
    encodeCommand i = .ok (writeCommand rs b) := by
  cases i with
  | clearDisplay => cases listed; rfl
  | returnHome => cases listed; rfl
  | entryModeSet dir shift => cases dir <;> cases shift <;> cases listed <;> rfl
  | displayOnOff display cursor blink =>
    cases display <;> cases cursor <;> cases blink <;> cases listed <;> rfl
  | cursorOrDisplayShift shift dir => cases shift <;> cases dir <;> cases listed <;> rfl
  | halfFunctionSet => cases listed
  | functionSet width line font => cases width <;> cases line <;> cases font <;> cases listed <;> rfl
  | setCGRAM addr =>
    simp only [payload] at listed
    split at listed
    · next inRange => cases listed; exact encodeSetCGRAM_of_lt inRange
    · cases listed
  | setDDRAM addr =>
    simp only [payload] at listed
    split at listed
    · next inRange => cases listed; exact encodeSetDDRAM_of_lt inRange
    · cases listed
  | readBusyFlagAndAddress => cases listed
  | writeDataToRAM byte => cases listed; rfl
  | readDataFromRAM => cases listed

theorem encodeCommand_of_readFrom {i : Instr} {rs : RegSel} (listed : readFrom i = some rs) :
    encodeCommand i = .ok (readCommand rs) := by
  cases i <;> cases listed <;> rfl

/-- Settles O4, from the table, the two reads and the two range checks. -/
theorem encoderGivesTheListedCommands : Obligations.EncoderGivesTheListedCommands :=
  ⟨fun _ _ _ => encodeCommand_of_payload, rfl, fun _ _ => encodeCommand_of_readFrom,
    fun _ => encodeSetCGRAM_of_ge, fun _ => encodeSetDDRAM_of_ge⟩

/-- The Command of an instruction has the instruction's word (R60, R62). -/
theorem encodeCommand_eq_command_encode {i : Instr} (wf : i.wellFormed = true) :
    encodeCommand i = .ok (encode i).command := by
  cases i with
  | clearDisplay => rfl
  | returnHome => rfl
  | entryModeSet dir shift => cases dir <;> cases shift <;> rfl
  | displayOnOff display cursor blink => cases display <;> cases cursor <;> cases blink <;> rfl
  | cursorOrDisplayShift shift dir => cases shift <;> cases dir <;> rfl
  | halfFunctionSet => rfl
  | functionSet width line font => cases width <;> cases line <;> cases font <;> rfl
  | setCGRAM addr =>
    have inRange : addr < 2 ^ 6 := of_decide_eq_true wf
    have field : ∀ x : BitVec 6,
        instructionWrite (0x40 ||| x.setWidth 8) = (WireWord.wide (0b0001#4 ++ x)).command := by decide
    rw [encodeCommand, encodeSetCGRAM, if_pos (show addr < 64 from inRange), ofNat_eq_setWidth inRange, field]
    rfl
  | setDDRAM addr =>
    have inRange : addr < 2 ^ 7 := of_decide_eq_true wf
    have field : ∀ x : BitVec 7,
        instructionWrite (0x80 ||| x.setWidth 8) = (WireWord.wide (0b001#3 ++ x)).command := by decide
    rw [encodeCommand, encodeSetDDRAM, if_pos (show addr < 128 from inRange), ofNat_eq_setWidth inRange, field]
    rfl
  | readBusyFlagAndAddress => rfl
  | writeDataToRAM byte =>
    have field : ∀ x : Byte, encodeWriteDataToRAM x = (WireWord.wide (0b10#2 ++ x)).command := by decide
    rw [encodeCommand, field]
    rfl
  | readDataFromRAM => rfl

/-- Settles O5: the word is the instruction's own (O2), or that of a read, whose input bits its Command leaves out. -/
theorem wordAndEncoderAgree : Obligations.WordAndEncoderAgree := by
  intro w i decodes
  obtain ⟨wf, rfl | ⟨rfl, r, rfl⟩ | ⟨rfl, r, rfl⟩⟩ := encodeOfDecodeIsTheWord w i decodes
  · exact encodeCommand_eq_command_encode wf
  · revert r; decide
  · revert r; decide

theorem wellFormed_of_encodeCommand {i : Instr} {c : Command} (encodes : encodeCommand i = .ok c) :
    i.wellFormed = true := by
  cases i with
  | setCGRAM addr =>
    by_contra out
    have out : 64 ≤ addr := by simpa [Instr.wellFormed] using out
    cases (encodeSetCGRAM_of_ge out).symm.trans encodes
  | setDDRAM addr =>
    by_contra out
    have out : 128 ≤ addr := by simpa [Instr.wellFormed] using out
    cases (encodeSetDDRAM_of_ge out).symm.trans encodes
  | _ => rfl

/-- A word made back from its Command is the word it was, the input bits of a read being written 0. -/
theorem wordOfCommand_command_encode (i : Instr) : wordOfCommand (encode i).command = encode i := by
  have ofByte : ∀ (h : BitVec 2) (b : Byte), h.getLsbD 0 = false →
      wordOfCommand (WireWord.wide (h ++ b)).command = .wide (h ++ b) := by decide
  cases i with
  | clearDisplay => rfl
  | returnHome => rfl
  | entryModeSet dir shift => cases dir <;> cases shift <;> rfl
  | displayOnOff display cursor blink => cases display <;> cases cursor <;> cases blink <;> rfl
  | cursorOrDisplayShift shift dir => cases shift <;> cases dir <;> rfl
  | halfFunctionSet => rfl
  | functionSet width line font => cases width <;> cases line <;> cases font <;> rfl
  | setCGRAM addr =>
    rw [encode]
    generalize BitVec.ofNat 6 addr = a
    revert a
    decide
  | setDDRAM addr =>
    rw [encode]
    generalize BitVec.ofNat 7 addr = a
    revert a
    decide
  | readBusyFlagAndAddress => rfl
  | writeDataToRAM byte => exact ofByte 0b10#2 byte rfl
  | readDataFromRAM => rfl

/-- Decoding the word of an instruction's Command gives the instruction back. -/
theorem decode_wordOfCommand {i : Instr} {c : Command} (encodes : encodeCommand i = .ok c) :
    decode (wordOfCommand c) = .ok i := by
  have wf := wellFormed_of_encodeCommand encodes
  cases (encodeCommand_eq_command_encode wf).symm.trans encodes
  rw [wordOfCommand_command_encode]
  exact decodeOfEncodeIsTheInstruction i wf

/-- Settles O33: the fields of the default layout do not overlap. -/
theorem defaultLatchLayout : Obligations.DefaultLatchLayout := by
  unfold Obligations.DefaultLatchLayout
  decide

end Sys2Proof.Machine
end

section
/-! Interface events in a row (R33, R57): what a list of calls does when the environment fails none of them, and where it
stops when one fails (R114). -/
namespace Sys2Proof.Machine
open Sys2Proof.Claim

/-- What the environment answers to a call that succeeds (R33, R57). -/
def Env.answer (e : Env) : Call → Answer
  | .pinSet _ _ => .done
  | .pinGet _ => .level e.nextLevel
  | .i2cWrite _ _ => .done
  | .i2cWriteRead _ _ n => .bytes (e.nextBytes n)
  | .delayUs _ => .done
  | .delayMs _ => .done

/-- The levels a call that succeeds adds to the read buffer (R103, R113). -/
def Env.sample (L : Latch) (e : Env) : Call → List Level
  | .pinSet _ _ => []
  | .pinGet _ => [e.nextLevel]
  | .i2cWrite _ _ => []
  | .i2cWriteRead _ _ n => levelsOfNibble (latchData L ((e.nextBytes n).headD 0))
  | .delayUs _ => []
  | .delayMs _ => []

/-- The environment after a call that succeeds. -/
def Env.afterCall (e : Env) : Call → Env
  | .pinSet _ _ => e.afterEvent
  | .pinGet _ => e.afterEvent.afterLevel
  | .i2cWrite _ _ => e.afterEvent
  | .i2cWriteRead _ _ n => e.afterEvent.afterBytes n
  | .delayUs _ => e.afterEvent
  | .delayMs _ => e.afterEvent

/-- The events of calls that succeed, one after the other. -/
def eventsOf : List Call → Env → List Event
  | [], _ => []
  | c :: cs, e => { call := c, answer := e.answer c } :: eventsOf cs (e.afterCall c)

/-- The levels those calls add to the read buffer. -/
def samplesOf (L : Latch) : List Call → Env → List Level
  | [], _ => []
  | c :: cs, e => e.sample L c ++ samplesOf L cs (e.afterCall c)

/-- The environment after those calls. -/
def envAfter : List Call → Env → Env
  | [], e => e
  | c :: cs, e => envAfter cs (e.afterCall c)

/-- The sequencer's position after some events. -/
def Seq.afterEvents (n : Nat) : Seq → Seq
  | .idle => .idle
  | .running k st rest => .running (k + n) st rest

/-- The state after calls that succeed. -/
def State.afterCalls (s : State) (cs : List Call) : State :=
  { s with
    X := { s.X with level := linesAfter cs s.X.level }
    seq := s.seq.afterEvents cs.length
    rx := s.rx ++ samplesOf s.params.latch cs s.env
    env := envAfter cs s.env
    trace := s.trace ++ eventsOf cs s.env }

@[simp] theorem eventsOf_map_call (cs : List Call) (e : Env) : (eventsOf cs e).map Event.call = cs := by
  induction cs generalizing e with
  | nil => rfl
  | cons c cs ih => rw [eventsOf, List.map_cons, ih]

@[simp] theorem length_eventsOf (cs : List Call) (e : Env) : (eventsOf cs e).length = cs.length := by
  rw [← List.length_map (f := Event.call), eventsOf_map_call]

theorem afterEvents_zero (q : Seq) : q.afterEvents 0 = q := by cases q <;> rfl

theorem afterEvents_add (n m : Nat) (q : Seq) : (q.afterEvents n).afterEvents m = q.afterEvents (n + m) := by
  cases q <;> simp [Seq.afterEvents, Nat.add_assoc]

theorem afterCalls_nil (s : State) : s.afterCalls [] = s := by
  simp [State.afterCalls, linesAfter, samplesOf, envAfter, eventsOf, afterEvents_zero]

/-- A call that succeeds (`State.complete`), in the words of this section. -/
theorem complete_eq_afterCalls (s : State) (c : Call) : s.complete c = s.afterCalls [c] := by
  cases c <;> cases hq : s.seq <;>
    simp [State.complete, State.emit, State.afterCalls, linesAfter, samplesOf, envAfter, eventsOf, Env.answer,
      Env.sample, Env.afterCall, hq, Seq.afterEvent, Seq.afterEvents]

theorem linesAfter_append (cs ds : List Call) (lines : Levels) :
    linesAfter (cs ++ ds) lines = linesAfter ds (linesAfter cs lines) := by
  induction cs generalizing lines with
  | nil => rfl
  | cons c cs ih => cases c <;> exact ih _

theorem samplesOf_append (L : Latch) (cs ds : List Call) (e : Env) :
    samplesOf L (cs ++ ds) e = samplesOf L cs e ++ samplesOf L ds (envAfter cs e) := by
  induction cs generalizing e with
  | nil => rfl
  | cons c cs ih => simp only [List.cons_append, samplesOf, envAfter, ih, List.append_assoc]

theorem envAfter_append (cs ds : List Call) (e : Env) : envAfter (cs ++ ds) e = envAfter ds (envAfter cs e) := by
  induction cs generalizing e with
  | nil => rfl
  | cons c cs ih => exact ih _

theorem eventsOf_append (cs ds : List Call) (e : Env) :
    eventsOf (cs ++ ds) e = eventsOf cs e ++ eventsOf ds (envAfter cs e) := by
  induction cs generalizing e with
  | nil => rfl
  | cons c cs ih => simp only [List.cons_append, eventsOf, envAfter, ih]

theorem afterCalls_append (s : State) (cs ds : List Call) :
    s.afterCalls (cs ++ ds) = (s.afterCalls cs).afterCalls ds := by
  simp [State.afterCalls, linesAfter_append, samplesOf_append, envAfter_append, eventsOf_append, afterEvents_add]

/-- The failure to come moves by one with each call. -/
theorem envAfter_failIn (cs : List Call) (e : Env) : (envAfter cs e).failIn = failAfter cs.length e := by
  have afterBytes (n : Nat) (e : Env) : (e.afterBytes n).failIn = e.failIn := by
    induction n generalizing e with
    | zero => rfl
    | succ n ih => exact ih _
  induction cs generalizing e with
  | nil => simp [envAfter, failAfter]
  | cons c cs ih =>
    have one : (e.afterCall c).failIn = e.failIn.map (· - 1) := by
      cases c <;> first | rfl | exact afterBytes _ _
    rw [envAfter, ih, failAfter, one, failAfter, Option.map_map]
    congr 1
    funext k
    simp only [Function.comp, List.length_cons]
    omega

/-- An environment that allows more than no event does not fail the next one. -/
theorem failIn_ne_zero_of_allows {n : Nat} {e : Env} (allows : Allows (n + 1) e) : e.failIn ≠ some 0 :=
  fun fails => absurd (allows 0 fails) (by omega)

theorem allows_of_failIn_none {e : Env} (never : e.failIn = none) (n : Nat) : Allows n e := by
  intro k fails
  rw [never] at fails
  cases fails

/-- After `cs` the environment allows what it allowed beyond them. -/
theorem allows_envAfter {cs : List Call} {n : Nat} {e : Env} (allows : Allows (cs.length + n) e) :
    Allows n (envAfter cs e) := by
  intro k fails
  rw [envAfter_failIn, failAfter, Option.map_eq_some_iff] at fails
  obtain ⟨j, fails, rfl⟩ := fails
  have := allows j fails
  omega

theorem perform_of_allows {s : State} {n : Nat} (allows : Allows (n + 1) s.env) (c : Call) :
    s.perform c = s.afterCalls [c] := by
  obtain ⟨fails, _⟩ | ⟨_, succeeds⟩ := perform_cases s c
  · exact absurd fails (failIn_ne_zero_of_allows allows)
  · rw [succeeds, complete_eq_afterCalls]

@[simp] theorem afterCalls_fatal (s : State) (cs : List Call) : (s.afterCalls cs).fatal = s.fatal := rfl

/-- Calls that the environment allows all succeed, and the sequence goes on. -/
theorem runWires_calls_append {cs : List Call} {s : State} (ws : List Wire) (running : s.fatal = none)
    (allows : Allows cs.length s.env) :
    State.runWires (cs.map .call ++ ws) s = State.runWires ws (s.afterCalls cs) := by
  induction cs generalizing s with
  | nil => rw [afterCalls_nil]; rfl
  | cons c cs ih =>
    have first : s.wire (.call c) = s.afterCalls [c] := perform_of_allows allows c
    have rest : Allows cs.length (envAfter [c] s.env) :=
      allows_envAfter (cs := [c]) (by rwa [List.length_singleton, Nat.add_comm])
    rw [List.map_cons, List.cons_append, runWires_cons _ _ _ (by rw [first]; exact running), first,
      ih (s := s.afterCalls [c]) running rest, ← afterCalls_append, List.singleton_append]

/-- A call that fails stops the sequence: those before it have happened, none after it (R114, R205). -/
theorem runWires_calls_fail {cs : List Call} {s : State} {k : Nat} (ws : List Wire) (running : s.fatal = none)
    (fails : s.env.failIn = some k) (inside : k < cs.length) :
    State.runWires (cs.map .call ++ ws) s = (s.afterCalls (cs.take k)).raise (.ioFault cs[k]) := by
  have split : cs = cs.take k ++ cs[k] :: cs.drop (k + 1) := by simp
  have before : Allows (cs.take k).length s.env := by
    intro j fails'
    cases fails.symm.trans fails'
    rw [List.length_take]
    omega
  have now : (s.afterCalls (cs.take k)).env.failIn = some 0 := by
    show (envAfter (cs.take k) s.env).failIn = some 0
    rw [envAfter_failIn, failAfter, fails, Option.map_some, List.length_take, min_eq_left inside.le, Nat.sub_self]
  have stops : (s.afterCalls (cs.take k)).wire (.call cs[k]) = (s.afterCalls (cs.take k)).raise (.ioFault cs[k]) := by
    obtain ⟨_, failed⟩ | ⟨succeeds, _⟩ := perform_cases (s.afterCalls (cs.take k)) cs[k]
    · exact failed
    · exact absurd now succeeds
  conv_lhs => rw [split]
  rw [List.map_append, List.append_assoc, runWires_calls_append _ running before, List.map_cons, List.cons_append,
    runWires_cons_halted _ _ _ (by simp [stops]), stops]

end Sys2Proof.Machine
end

section
/-! A `send` on each transport (R100 to R113): its calls, then the silent end; so a whole `send` is refused, or stops at a
failing event, or completes. -/
namespace Sys2Proof.Machine
open Sys2Proof.Claim

/-- How the byte of a Command is read back on a transport: only a Command with no payload is a read (R104 to R107, R112,
R113). -/
def readBackOf (tr : Transport) (c : Command) : ReadBack :=
  match c.data, tr with
  | .bit8 _, _ => .none
  | .bit4 _, _ => .none
  | .none, .parallelEightBit => .byte
  | .none, .parallelFourBit => .nibbles
  | .none, .i2cBridge => .nibbles

/-- The silent end of a `send`: on the bridge `X.first_command_sent` (R110), then the return (R100). -/
def closing (tr : Transport) (c : Command) : List Wire :=
  match tr with
  | .parallelFourBit => [.ret c (readBackOf tr c)]
  | .parallelEightBit => [.ret c (readBackOf tr c)]
  | .i2cBridge => [.sentFirst, .ret c (readBackOf tr c)]

/-- What `X.first_command_sent` is after a `send` that completes (R110). -/
def firstSentAfter (s : State) : Bool :=
  match s.params.transport with
  | .parallelFourBit => s.X.firstCommandSent
  | .parallelEightBit => s.X.firstCommandSent
  | .i2cBridge => true

/-- The state after the silent end. -/
def State.closed (s : State) (c : Command) : State :=
  { s with
    X := { s.X with firstCommandSent := firstSentAfter s }
    sent := readBackByte s.rx (readBackOf s.params.transport c)
    delivered := s.delivered ++ [c] }

/-- The state after a whole `send` whose calls all succeed. -/
def State.delivering (s : State) (c : Command) (ws : List Wire) : State :=
  (({ s with rx := [] } : State).afterCalls (callsOf ws)).closed c

/-- Where a Command is accepted: its wire sequence is that of its transport (R100). -/
theorem wiresOf_ok_cases {s : State} {c : Command} {ws : List Wire} (accepted : wiresOf s c = .ok ws) :
    c.wellFormed = true
      ∧ ((s.params.transport = .parallelFourBit ∧ ws = fourBitWires c)
        ∨ (s.params.transport = .parallelEightBit ∧ eightBitWires c = .ok ws)
        ∨ (s.params.transport = .i2cBridge ∧ ws = bridgeTransfer s c
            ∧ (s.X.firstCommandSent = false → c = bootstrap) ∧ isEightBitRequest c = false)) := by
  unfold wiresOf at accepted
  split at accepted
  · next wf =>
    refine ⟨wf, ?_⟩
    split at accepted
    · next tr => cases accepted; exact .inl ⟨tr, rfl⟩
    · next tr => exact .inr (.inl ⟨tr, accepted⟩)
    · next tr =>
      unfold bridgeWires requireBootstrap requireFourBit at accepted
      split at accepted
      · cases accepted
      · next first =>
        split at first
        · cases first
        · next bootstrapped =>
          split at accepted
          · cases accepted
          · next width =>
            split at width
            · cases width
            · next fourBit =>
              cases accepted
              exact .inr (.inr ⟨tr, rfl, by simpa using bootstrapped, by simpa using fourBit⟩)
  · cases accepted

/-- A wire sequence is its calls and then the silent end. -/
theorem wiresOf_eq_calls_append_closing {s : State} {c : Command} {ws : List Wire} (accepted : wiresOf s c = .ok ws) :
    ws = (callsOf ws).map .call ++ closing s.params.transport c := by
  obtain ⟨_, ⟨tr, rfl⟩ | ⟨tr, eight⟩ | ⟨tr, rfl, _⟩⟩ := wiresOf_ok_cases accepted
  · obtain ⟨rs, rw, _ | n | b⟩ := c <;> rw [tr] <;> rfl
  · obtain ⟨rs, rw, _ | n | b⟩ := c <;> cases eight <;> rw [tr] <;> rfl
  · obtain ⟨rs, rw, _ | n | b⟩ := c <;> rw [tr] <;> rfl

theorem runWires_closing (s : State) (c : Command) (running : s.fatal = none) :
    State.runWires (closing s.params.transport c) s = s.closed c := by
  unfold closing State.closed firstSentAfter
  cases tr : s.params.transport <;> simp [State.runWires, State.wire, State.halted, running]

/-- A whole `send` of an accepted Command whose events are all allowed completes. -/
theorem sendNow_of_allows {s : State} {c : Command} {ws : List Wire} (running : s.fatal = none)
    (accepted : wiresOf s c = .ok ws) (allows : Allows (callsOf ws).length s.env) :
    s.sendNow c = s.delivering c ws := by
  rw [State.sendNow, accepted]
  dsimp only
  rw [wiresOf_eq_calls_append_closing accepted, runWires_calls_append (s := { s with rx := [] }) _ running allows,
    State.delivering, ← wiresOf_eq_calls_append_closing accepted]
  exact runWires_closing (({ s with rx := [] } : State).afterCalls (callsOf ws)) c running

/-- A whole `send` of an accepted Command stops at a failing event (R114). -/
theorem sendNow_of_failIn {s : State} {c : Command} {ws : List Wire} {k : Nat} (running : s.fatal = none)
    (accepted : wiresOf s c = .ok ws) (fails : s.env.failIn = some k) (inside : k < (callsOf ws).length) :
    s.sendNow c
      = (({ s with rx := [] } : State).afterCalls ((callsOf ws).take k)).raise (.ioFault (callsOf ws)[k]) := by
  rw [State.sendNow, accepted]
  dsimp only
  conv_lhs => rw [wiresOf_eq_calls_append_closing accepted]
  exact runWires_calls_fail (s := { s with rx := [] }) _ running fails inside

/-- What a whole `send` can do: it is refused before its first event, it stops at a failing event, or it completes. -/
theorem sendNow_outcome {s : State} (running : s.fatal = none) (c : Command) :
    (∃ e, wiresOf s c = .error e ∧ s.sendNow c = s.raise e)
      ∨ (∃ ws k, ∃ inside : k < (callsOf ws).length, wiresOf s c = .ok ws ∧ s.env.failIn = some k
          ∧ s.sendNow c
            = (({ s with rx := [] } : State).afterCalls ((callsOf ws).take k)).raise (.ioFault (callsOf ws)[k]))
      ∨ ∃ ws, wiresOf s c = .ok ws ∧ Allows (callsOf ws).length s.env ∧ s.sendNow c = s.delivering c ws := by
  obtain ⟨e, refused, raises⟩ | ⟨ws, accepted, _⟩ := sendNow_cases s c
  · exact .inl ⟨e, refused, raises⟩
  · by_cases allows : Allows (callsOf ws).length s.env
    · exact .inr (.inr ⟨ws, accepted, allows, sendNow_of_allows running accepted allows⟩)
    · unfold Allows at allows
      push Not at allows
      obtain ⟨k, fails, inside⟩ := allows
      exact .inr (.inl ⟨ws, k, inside, accepted, fails, sendNow_of_failIn running accepted fails inside⟩)

@[simp] theorem closed_fatal (s : State) (c : Command) : (s.closed c).fatal = s.fatal := rfl
@[simp] theorem delivering_fatal (s : State) (c : Command) (ws : List Wire) : (s.delivering c ws).fatal = s.fatal := rfl

/-- The calls a transport makes for a Command: no wait, and not the backlight line. -/
def isBusCall : Call → Bool
  | .pinSet .bl _ => false
  | .pinSet .rs _ => true
  | .pinSet .rw _ => true
  | .pinSet .en _ => true
  | .pinSet (.dl _) _ => true
  | .pinGet _ => true
  | .i2cWrite _ _ => true
  | .i2cWriteRead _ _ _ => true
  | .delayUs _ => false
  | .delayMs _ => false

theorem isBusCall_of_mem_callsOf {s : State} {c : Command} {ws : List Wire} (accepted : wiresOf s c = .ok ws) :
    ∀ call ∈ callsOf ws, isBusCall call = true := by
  rw [← List.all_eq_true]
  obtain ⟨_, ⟨_, rfl⟩ | ⟨_, eight⟩ | ⟨_, rfl, _⟩⟩ := wiresOf_ok_cases accepted
  · obtain ⟨rs, rw, _ | n | b⟩ := c <;> rfl
  · obtain ⟨rs, rw, _ | n | b⟩ := c <;> cases eight <;> rfl
  · obtain ⟨rs, rw, _ | n | b⟩ := c <;> rfl

theorem linesAfter_bl {cs : List Call} (bus : ∀ call ∈ cs, isBusCall call = true) (lines : Levels) :
    (linesAfter cs lines).bl = lines.bl := by
  induction cs generalizing lines with
  | nil => rfl
  | cons c cs ih =>
    obtain ⟨first, rest⟩ := List.forall_mem_cons.mp bus
    cases c with
    | pinSet l v => cases l <;> first | exact ih rest _ | cases first
    | _ => exact ih rest _

end Sys2Proof.Machine
end

section
/-! The instructions requested by themselves (R7, R60): the exact next state on each transport, the refusals, a failing
event, and what no instruction changes. -/
namespace Sys2Proof.Machine
open Sys2Proof.Claim

/-! ## A delivery -/

/-- The state after a delivered Command whose calls all succeeded. -/
def State.afterDelivery (s : State) (c : Command) (ws : List Wire) : State :=
  let rx := samplesOf s.params.latch (callsOf ws) s.env
  let sent := readBackByte rx (readBackOf s.params.transport c)
  { s with
    X := { s.X with level := linesAfter (callsOf ws) s.X.level, firstCommandSent := firstSentAfter s }
    rx := rx
    sent := sent
    result := resultOfSent sent
    env := envAfter (callsOf ws) s.env
    trace := s.trace ++ eventsOf (callsOf ws) s.env
    delivered := s.delivered ++ [c] }

/-- The state in which a delivery begins. -/
def State.opening (s : State) : State := { s with seq := Seq.start, result := .nothing }

/-- A delivery is the whole `send` of its Command; where that halts, the block stays as it is then (R191). -/
theorem deliver_of_halts {s : State} {c : Command} {e : FatalError} (running : s.fatal = none)
    (halts : (s.opening.sendNow c).fatal = some e) : deliver (.ok c) s = .next (s.opening.sendNow c) := by
  unfold deliver
  split
  · next halted => rw [running] at halted; cases halted
  · exact if_pos (by rw [State.halted, ← State.opening, halts]; rfl)

/-- Where the whole `send` completes, the sequencer is where it was and the optional byte is returned (R100). -/
theorem deliver_of_completes {s : State} {c : Command} (running : s.fatal = none)
    (completes : (s.opening.sendNow c).fatal = none) :
    deliver (.ok c) s
      = .next { s.opening.sendNow c with seq := s.seq, result := resultOfSent (s.opening.sendNow c).sent } := by
  unfold deliver
  split
  · next halted => rw [running] at halted; cases halted
  · exact if_neg (by rw [State.halted, ← State.opening, completes]; exact Bool.false_ne_true)

theorem deliver_of_allows {s : State} {c : Command} {ws : List Wire} (running : s.fatal = none)
    (accepted : wiresOf s c = .ok ws) (allows : Allows (callsOf ws).length s.env) :
    deliver (.ok c) s = .next (s.afterDelivery c ws) := by
  have sends : s.opening.sendNow c = s.opening.delivering c ws := sendNow_of_allows running accepted allows
  rw [deliver_of_completes running (by rw [sends]; exact running), sends]
  rfl

/-- A delivery that is refused before its first event. -/
theorem deliver_of_refused {s : State} {c : Command} {e : FatalError} (running : s.fatal = none)
    (refused : wiresOf s c = .error e) :
    deliver (.ok c) s = .next { s with fatal := some e, result := .nothing, seq := .running 0 none [] } := by
  have raises : s.opening.sendNow c = s.opening.raise e := by
    rw [State.sendNow, show wiresOf s.opening c = .error e from refused]
  rw [deliver_of_halts (e := e) running (by rw [raises]; rfl), raises]
  rfl

/-- A delivery that stops at a failing event (R114). -/
theorem deliver_of_failIn {s : State} {c : Command} {ws : List Wire} {k : Nat} (running : s.fatal = none)
    (accepted : wiresOf s c = .ok ws) (fails : s.env.failIn = some k) (inside : k < (callsOf ws).length) :
    deliver (.ok c) s = .next
      ((({ s.opening with rx := [] } : State).afterCalls ((callsOf ws).take k)).raise (.ioFault (callsOf ws)[k])) := by
  have stops := sendNow_of_failIn (s := s.opening) running accepted fails inside
  rw [deliver_of_halts (e := .ioFault (callsOf ws)[k]) running (by rw [stops]; rfl), stops]

/-! ## Draws of the environment -/

/-- The levels a list of calls draws. -/
def levelDraws : List Call → Nat
  | [] => 0
  | .pinGet _ :: cs => levelDraws cs + 1
  | _ :: cs => levelDraws cs

/-- The bytes a list of calls draws. -/
def byteDraws : List Call → Nat
  | [] => 0
  | .i2cWriteRead _ _ n :: cs => byteDraws cs + n
  | _ :: cs => byteDraws cs

theorem afterBytes_eq (n : Nat) (e : Env) :
    e.afterBytes n = { e with bytes := e.bytes.drop n, draws := e.draws + n } := by
  induction n generalizing e with
  | zero => rfl
  | succ n ih =>
    rw [Env.afterBytes, ih]
    simp [Env.afterByte, Nat.add_assoc, Nat.add_comm 1]

/-- The environment after some calls, field by field. -/
theorem envAfter_eq (cs : List Call) (e : Env) :
    envAfter cs e =
      { levels := e.levels.drop (levelDraws cs), bytes := e.bytes.drop (byteDraws cs)
        failIn := failAfter cs.length e, draws := e.draws + levelDraws cs + byteDraws cs } := by
  rw [← envAfter_failIn]
  induction cs generalizing e with
  | nil => rfl
  | cons c cs ih =>
    rw [envAfter, ih]
    cases c <;>
      simp only [Env.afterCall, Env.afterEvent, Env.afterLevel, afterBytes_eq, levelDraws, byteDraws, List.drop_drop,
        List.drop_tail, Env.mk.injEq, true_and] <;>
      first | omega | refine ⟨?_, ?_⟩ <;> first | omega | (congr 1; omega)

/-! ## Writes -/

/-- `put` of the high nibble, in the bits of the byte (R47). -/
theorem putNibble_highNibble (b : Byte) :
    putNibble (highNibble b)
      = [setLine (.dl 0) (lv b 4), setLine (.dl 1) (lv b 5), setLine (.dl 2) (lv b 6), setLine (.dl 3) (lv b 7)] := by
  simp [putNibble, highNibble, Level.ofBit, lv]

/-- `put` of the low nibble, in the bits of the byte (R47). -/
theorem putNibble_lowNibble (b : Byte) :
    putNibble (lowNibble b)
      = [setLine (.dl 0) (lv b 0), setLine (.dl 1) (lv b 1), setLine (.dl 2) (lv b 2), setLine (.dl 3) (lv b 3)] := by
  simp [putNibble, lowNibble, Level.ofBit, lv]

theorem callsOf_fourBitWires_write (rs : RegSel) (b : Byte) :
    callsOf (fourBitWires (writeCommand rs b))
      = ([drove .rs (rsLv rs), drove .rw .low] ++ nibbleEvents b 4 ++ nibbleEvents b 0).map Event.call := by
  simp only [fourBitWires, writeCommand, putNibble_highNibble, putNibble_lowNibble]
  cases rs <;> rfl

theorem wiresOf_fourBit_write {s : State} (tr : s.params.transport = .parallelFourBit) (rs : RegSel) (b : Byte) :
    wiresOf s (writeCommand rs b) = .ok (fourBitWires (writeCommand rs b)) := by
  simp [wiresOf, tr, writeCommand, Command.wellFormed]

/-- Four lines: a byte sent whole (R104). -/
theorem deliver_fourBit_write {s : State} (running : s.fatal = none) (tr : s.params.transport = .parallelFourBit)
    (allows : Allows 14 s.env) (rs : RegSel) (b : Byte) :
    deliver (.ok (writeCommand rs b)) s = .next (afterFourBitByte s rs b) := by
  rw [deliver_of_allows running (wiresOf_fourBit_write tr rs b) (by rw [callsOf_fourBitWires_write]; exact allows)]
  simp only [State.afterDelivery, callsOf_fourBitWires_write, envAfter_eq, firstSentAfter, tr]
  simp only [afterFourBitByte, List.append_assoc]
  rfl

/-- Settles O8, from the Command of each instruction (O4) and the byte sent on four lines. -/
theorem fourBitWritesComplete : Obligations.FourBitWritesComplete := by
  intro s i rs b running tr allows listed
  rw [exec_eq_deliver, encodeCommand_of_payload listed]
  exact deliver_fourBit_write running tr allows rs b

/-- Settles O9: one nibble and its strobe, the low four bits of `0x02`. -/
theorem fourBitHalfFunctionSetCompletes : Obligations.FourBitHalfFunctionSetCompletes := by
  intro s running tr allows
  have accepted : wiresOf s halfCommand = .ok (fourBitWires halfCommand) := by
    simp [wiresOf, tr, halfCommand, Command.wellFormed]
  have calls : callsOf (fourBitWires halfCommand)
      = ([drove .rs .low, drove .rw .low] ++ nibbleEvents 0x02 0).map Event.call := rfl
  rw [exec_eq_deliver, show encodeCommand .halfFunctionSet = .ok halfCommand from rfl,
    deliver_of_allows running accepted (by rw [calls]; exact allows)]
  simp only [State.afterDelivery, calls, envAfter_eq, firstSentAfter, tr, afterFourBitHalf, List.append_assoc]
  rfl

theorem callsOf_eightBit_write (rs : RegSel) (b : Byte) :
    callsOf (prologue (writeCommand rs b) ++ putByte b ++ strobe ++ [.ret (writeCommand rs b) .none])
      = ([drove .rs (rsLv rs), drove .rw .low] ++ putEvents b ++ [drove .en .high, drove .en .low]).map
          Event.call := by
  cases rs <;> rfl

/-- Eight data lines set one after the other hold the byte (R102). -/
theorem linesAfter_putEvents (b : Byte) (lines : Levels) :
    linesAfter ((putEvents b).map Event.call) lines = { lines with dl := eightLines b } := by
  obtain ⟨rs, rw, en, bl, ⟨⟨dl⟩, size⟩⟩ := lines
  match dl, size with
  | [_, _, _, _, _, _, _, _], _ => rfl

/-- Settles O11: RS, RW, the byte on eight lines, one strobe. -/
theorem eightBitWritesComplete : Obligations.EightBitWritesComplete := by
  intro s i rs b running tr allows listed
  have accepted : wiresOf s (writeCommand rs b)
      = .ok (prologue (writeCommand rs b) ++ putByte b ++ strobe ++ [.ret (writeCommand rs b) .none]) := by
    simp [wiresOf, tr, writeCommand, Command.wellFormed, eightBitWires]
  rw [exec_eq_deliver, encodeCommand_of_payload listed,
    deliver_of_allows running accepted (by rw [callsOf_eightBit_write]; exact allows)]
  simp only [State.afterDelivery, callsOf_eightBit_write, envAfter_eq, firstSentAfter, tr]
  simp only [List.map_append, linesAfter_append, linesAfter_putEvents, afterEightBitByte, List.append_assoc]
  rfl

/-! ## Reads -/

/-- Two nibbles side by side are the byte of their numbers. -/
theorem append_nibbles (x y : Nibble) : (x ++ y : Byte) = BitVec.ofNat 8 (16 * x.toNat + y.toNat) := by
  revert x y
  decide

/-- The byte of eight sampled levels, the first nibble the high one (R47, R106). -/
theorem byteOfNibbles_eq (h0 h1 h2 h3 l0 l1 l2 l3 : Level) :
    byteOfNibbles [h0, h1, h2, h3, l0, l1, l2, l3]
      = BitVec.ofNat 8 (128 * val h3 + 64 * val h2 + 32 * val h1 + 16 * val h0
          + 8 * val l3 + 4 * val l2 + 2 * val l1 + val l0) := by
  have number (v0 v1 v2 v3 : Level) :
      (BitVec.ofNat 4 (numberOfLevels [v0, v1, v2, v3])).toNat = val v0 + 2 * val v1 + 4 * val v2 + 8 * val v3 := by
    cases v0 <;> cases v1 <;> cases v2 <;> cases v3 <;> rfl
  show (BitVec.ofNat 4 (numberOfLevels [h0, h1, h2, h3]) ++ BitVec.ofNat 4 (numberOfLevels [l0, l1, l2, l3]) : Byte) = _
  rw [append_nibbles, number, number]
  congr 1
  ring

theorem byteOfLevels_eq (l0 l1 l2 l3 l4 l5 l6 l7 : Level) :
    byteOfLevels [l0, l1, l2, l3, l4, l5, l6, l7]
      = BitVec.ofNat 8 (val l0 + 2 * val l1 + 4 * val l2 + 8 * val l3 + 16 * val l4 + 32 * val l5 + 64 * val l6
          + 128 * val l7) := by
  have bit (v : Level) : (if v.bit then 1 else 0) = val v := by cases v <;> rfl
  show BitVec.ofNat 8 (numberOfLevels [l0, l1, l2, l3, l4, l5, l6, l7]) = _
  simp only [numberOfLevels, bit]
  congr 1
  ring

/-- An event that succeeds draws nothing. -/
theorem nextLevel_afterEvent (e : Env) : e.afterEvent.nextLevel = e.nextLevel := rfl

theorem afterLevel_afterEvent (e : Env) : e.afterEvent.afterLevel = e.afterLevel.afterEvent := rfl

/-- The events of a read on four lines (R106). -/
def fourBitReadEvents (rs : RegSel) (h0 h1 h2 h3 l0 l1 l2 l3 : Level) : List Event :=
  [drove .rs (rsLv rs), drove .rw .high] ++ readNibbleEvents h0 h1 h2 h3 ++ readNibbleEvents l0 l1 l2 l3

theorem callsOf_fourBit_read (rs : RegSel) (h0 h1 h2 h3 l0 l1 l2 l3 : Level) :
    callsOf (fourBitWires (readCommand rs))
      = (fourBitReadEvents rs h0 h1 h2 h3 l0 l1 l2 l3).map Event.call := by
  cases rs <;> rfl

/-- The lines after two probes are those of a nibble of ones put and strobed (R103, R106). -/
theorem linesAfter_fourBitReadEvents (rs : RegSel) (h0 h1 h2 h3 l0 l1 l2 l3 : Level) (lines : Levels) :
    linesAfter ((fourBitReadEvents rs h0 h1 h2 h3 l0 l1 l2 l3).map Event.call) lines
      = linesOfNibble { lines with rs := .driven (rsLv rs), rw := .driven .high } 0x0F 0 := by
  obtain ⟨rsLine, rw, en, bl, ⟨⟨dl⟩, size⟩⟩ := lines
  match dl, size with
  | [_, _, _, _, _, _, _, _], _ => rfl

/-- The answers of a read on four lines are the eight levels drawn, in order. -/
theorem fourBit_read_answers {e : Env} {h0 h1 h2 h3 l0 l1 l2 l3 : Level}
    (draws : drawLevels 8 e = [h0, h1, h2, h3, l0, l1, l2, l3]) (L : Latch) (rs : RegSel) :
    eventsOf ((fourBitReadEvents rs h0 h1 h2 h3 l0 l1 l2 l3).map Event.call) e
        = fourBitReadEvents rs h0 h1 h2 h3 l0 l1 l2 l3
      ∧ samplesOf L ((fourBitReadEvents rs h0 h1 h2 h3 l0 l1 l2 l3).map Event.call) e
        = [h0, h1, h2, h3, l0, l1, l2, l3] := by
  simp only [drawLevels, List.cons.injEq, and_true] at draws
  simp only [fourBitReadEvents, readNibbleEvents, drove, sampled, List.cons_append, List.nil_append, List.map_cons, List.map_nil,
    eventsOf, samplesOf, Env.answer, Env.sample, Env.afterCall, afterLevel_afterEvent, nextLevel_afterEvent, draws,
    and_self]

/-- Settles O10: two probes of the four lines, whatever they answer. -/
theorem fourBitReadsComplete : Obligations.FourBitReadsComplete := by
  intro s i rs h0 h1 h2 h3 l0 l1 l2 l3 running tr allows listed draws
  have accepted : wiresOf s (readCommand rs) = .ok (fourBitWires (readCommand rs)) := by
    simp [wiresOf, tr, readCommand, Command.wellFormed]
  have calls := callsOf_fourBit_read rs h0 h1 h2 h3 l0 l1 l2 l3
  obtain ⟨events, samples⟩ := fourBit_read_answers draws s.params.latch rs
  rw [exec_eq_deliver, encodeCommand_of_readFrom listed,
    deliver_of_allows running accepted (by rw [calls]; exact allows)]
  simp only [State.afterDelivery, calls, events, samples, linesAfter_fourBitReadEvents, envAfter_eq, firstSentAfter, tr,
    readBackOf]
  simp only [readCommand, readBackByte, byteOfNibbles_eq, afterFourBitRead, fourBitReadEvents, List.append_assoc]
  rfl

/-- The events of a read on eight lines (R107). -/
def eightBitReadEvents (rs : RegSel) (l0 l1 l2 l3 l4 l5 l6 l7 : Level) : List Event :=
  [drove .rs (rsLv rs), drove .rw .high] ++ putEvents 0xFF ++ [drove .en .high]
    ++ [sampled 0 l0, sampled 1 l1, sampled 2 l2, sampled 3 l3, sampled 4 l4, sampled 5 l5, sampled 6 l6, sampled 7 l7]
    ++ [drove .en .low]

theorem callsOf_eightBit_read (rs : RegSel) (l0 l1 l2 l3 l4 l5 l6 l7 : Level) :
    callsOf (prologue (readCommand rs) ++ getByte ++ [.ret (readCommand rs) .byte])
      = (eightBitReadEvents rs l0 l1 l2 l3 l4 l5 l6 l7).map Event.call := by
  cases rs <;> rfl

theorem linesAfter_eightBitReadEvents (rs : RegSel) (l0 l1 l2 l3 l4 l5 l6 l7 : Level) (lines : Levels) :
    linesAfter ((eightBitReadEvents rs l0 l1 l2 l3 l4 l5 l6 l7).map Event.call) lines
      = { lines with rs := .driven (rsLv rs), rw := .driven .high, en := .driven .low, dl := eightLines 0xFF } := by
  simp only [eightBitReadEvents, List.map_append, linesAfter_append, linesAfter_putEvents]
  rfl

/-- The answers of a read on eight lines are the eight levels drawn, in order. -/
theorem eightBit_read_answers {e : Env} {l0 l1 l2 l3 l4 l5 l6 l7 : Level}
    (draws : drawLevels 8 e = [l0, l1, l2, l3, l4, l5, l6, l7]) (L : Latch) (rs : RegSel) :
    eventsOf ((eightBitReadEvents rs l0 l1 l2 l3 l4 l5 l6 l7).map Event.call) e
        = eightBitReadEvents rs l0 l1 l2 l3 l4 l5 l6 l7
      ∧ samplesOf L ((eightBitReadEvents rs l0 l1 l2 l3 l4 l5 l6 l7).map Event.call) e
        = [l0, l1, l2, l3, l4, l5, l6, l7] := by
  simp only [drawLevels, List.cons.injEq, and_true] at draws
  simp only [eightBitReadEvents, putEvents, drove, sampled, List.cons_append, List.nil_append, List.map_cons, List.map_nil,
    eventsOf, samplesOf, Env.answer, Env.sample, Env.afterCall, afterLevel_afterEvent, nextLevel_afterEvent, draws,
    and_self]

/-- Settles O12: one probe of the eight lines, whatever they answer. -/
theorem eightBitReadsComplete : Obligations.EightBitReadsComplete := by
  intro s i rs l0 l1 l2 l3 l4 l5 l6 l7 running tr allows listed draws
  have accepted : wiresOf s (readCommand rs)
      = .ok (prologue (readCommand rs) ++ getByte ++ [.ret (readCommand rs) .byte]) := by
    simp [wiresOf, tr, readCommand, Command.wellFormed, eightBitWires]
  have calls := callsOf_eightBit_read rs l0 l1 l2 l3 l4 l5 l6 l7
  obtain ⟨events, samples⟩ := eightBit_read_answers draws s.params.latch rs
  rw [exec_eq_deliver, encodeCommand_of_readFrom listed,
    deliver_of_allows running accepted (by rw [calls]; exact allows)]
  simp only [State.afterDelivery, calls, events, samples, linesAfter_eightBitReadEvents, envAfter_eq, firstSentAfter, tr,
    readBackOf]
  simp only [readCommand, readBackByte, byteOfLevels_eq, afterEightBitRead, eightBitReadEvents, List.append_assoc]
  rfl

/-! ## The bridge -/

/-- What the bridge asks of a Command (R109, R110): well formed, bootstrapped or the bootstrap, no 8-bit Function set. -/
theorem wiresOf_bridge {s : State} {c : Command} (tr : s.params.transport = .i2cBridge) (wf : c.wellFormed = true)
    (first : s.X.firstCommandSent = true ∨ c = bootstrap) (fourBit : isEightBitRequest c = false) :
    wiresOf s c = .ok (bridgeTransfer s c) := by
  have checked : requireBootstrap s.X c = .ok () := by
    obtain first | rfl := first <;> simp [requireBootstrap, *]
  simp [wiresOf, wf, tr, bridgeWires, checked, requireFourBit, fourBit]

theorem callsOf_bridge_write (s : State) (rs : RegSel) (b : Byte) :
    callsOf (bridgeTransfer s (writeCommand rs b))
      = (bridgeNibbleEvents s rs (b.extractLsb' 4 4) ++ bridgeNibbleEvents s rs (b.extractLsb' 0 4)).map
          Event.call := by
  cases rs <;> rfl

/-- The instruction bytes that are a Function set with `W = 1` (R109). -/
theorem isEightBitRequest_instruction (b : Byte) :
    isEightBitRequest (instruction b) = true ↔ 0x30 ≤ b.toNat ∧ b.toNat < 0x40 := by
  revert b
  decide

/-- Only a Function set with `W = 1` is an 8-bit request (R109). -/
theorem isEightBitRequest_of_payload {i : Instr} {rs : RegSel} {b : Byte} (listed : payload i = some (rs, b))
    (notWide : ∀ line font, i ≠ .functionSet .bit8 line font) : isEightBitRequest (writeCommand rs b) = false := by
  have addressByte {a : Nat} (lo : 0x40 ≤ a) (hi : a < 256) : isEightBitRequest (instruction (BitVec.ofNat 8 a)) = false := by
    rw [Bool.eq_false_iff, ne_eq, isEightBitRequest_instruction, BitVec.toNat_ofNat, Nat.mod_eq_of_lt hi]
    omega
  cases i with
  | clearDisplay => cases listed; rfl
  | returnHome => cases listed; rfl
  | entryModeSet dir shift => cases dir <;> cases shift <;> cases listed <;> rfl
  | displayOnOff display cursor blink =>
    cases display <;> cases cursor <;> cases blink <;> cases listed <;> rfl
  | cursorOrDisplayShift shift dir => cases shift <;> cases dir <;> cases listed <;> rfl
  | halfFunctionSet => cases listed
  | functionSet width line font =>
    cases width with
    | bit4 => cases line <;> cases font <;> cases listed <;> rfl
    | bit8 => exact absurd rfl (notWide line font)
  | setCGRAM addr =>
    simp only [payload] at listed
    split at listed
    · cases listed; exact addressByte (by omega) (by omega)
    · cases listed
  | setDDRAM addr =>
    simp only [payload] at listed
    split at listed
    · cases listed; exact addressByte (by omega) (by omega)
    · cases listed
  | readBusyFlagAndAddress => cases listed
  | writeDataToRAM byte => cases listed; rfl
  | readDataFromRAM => cases listed

/-- Settles O13: two nibbles of three transactions, the high one first. -/
theorem bridgeWritesComplete : Obligations.BridgeWritesComplete := by
  intro s i rs b running tr first allows notWide listed
  have accepted : wiresOf s (writeCommand rs b) = .ok (bridgeTransfer s (writeCommand rs b)) :=
    wiresOf_bridge tr rfl (.inl first) (isEightBitRequest_of_payload listed notWide)
  rw [exec_eq_deliver, encodeCommand_of_payload listed,
    deliver_of_allows running accepted (by rw [callsOf_bridge_write]; exact allows)]
  simp only [State.afterDelivery, callsOf_bridge_write, envAfter_eq, firstSentAfter, tr]
  simp only [afterBridgeByte, List.append_assoc]
  rfl

/-- Settles O14: the half function set is the bootstrap, so it is taken first or later. -/
theorem bridgeHalfFunctionSetCompletes : Obligations.BridgeHalfFunctionSetCompletes := by
  intro s running tr allows
  have accepted : wiresOf s halfCommand = .ok (bridgeTransfer s halfCommand) := wiresOf_bridge tr rfl (.inr rfl) rfl
  have calls : callsOf (bridgeTransfer s halfCommand) = (bridgeNibbleEvents s .command 0b0010).map Event.call := rfl
  rw [exec_eq_deliver, show encodeCommand .halfFunctionSet = .ok halfCommand from rfl,
    deliver_of_allows running accepted (by rw [calls]; exact allows)]
  simp only [State.afterDelivery, calls, envAfter_eq, firstSentAfter, tr]
  rfl

theorem callsOf_bridge_read (s : State) (rs : RegSel) (h l : Byte) :
    callsOf (bridgeTransfer s (readCommand rs)) = (probeEvents s rs h ++ probeEvents s rs l).map Event.call := by
  cases rs <;> rfl

/-- The data bits of a byte read back, as levels (R113). -/
theorem levelsOfNibble_latchData (L : Latch) (b : Byte) :
    levelsOfNibble (latchData L b)
      = [lv (b >>> L.dataLsb) 0, lv (b >>> L.dataLsb) 1, lv (b >>> L.dataLsb) 2, lv (b >>> L.dataLsb) 3] := by
  unfold latchData
  generalize b >>> L.dataLsb = u
  simp [levelsOfNibble, Level.ofBit, lv]

/-- The answers of a read over the bridge are the two bytes drawn, in order. -/
theorem bridge_read_answers {s : State} {h l : Byte} (draws : drawBytes 2 s.env = [h, l]) (rs : RegSel) :
    eventsOf ((probeEvents s rs h ++ probeEvents s rs l).map Event.call) s.env = probeEvents s rs h ++ probeEvents s rs l
      ∧ samplesOf s.params.latch ((probeEvents s rs h ++ probeEvents s rs l).map Event.call) s.env
        = levelsOfNibble (latchData s.params.latch h) ++ levelsOfNibble (latchData s.params.latch l) := by
  simp only [drawBytes, List.cons.injEq, and_true] at draws
  obtain ⟨rfl, rfl⟩ := draws
  exact ⟨rfl, rfl⟩

/-- The byte of two probes: the data bits of the first answer above those of the second (R113). -/
theorem byteOfNibbles_probes (u v : Byte) :
    byteOfNibbles [lv u 0, lv u 1, lv u 2, lv u 3, lv v 0, lv v 1, lv v 2, lv v 3]
      = ((u &&& 0x0F) <<< 4) ||| (v &&& 0x0F) := by
  have nibble (w : Byte) : BitVec.ofNat 4 (numberOfLevels [lv w 0, lv w 1, lv w 2, lv w 3]) = w.extractLsb' 0 4 := by
    revert w
    decide
  have masked (w : Byte) : w &&& 0x0F = (w.extractLsb' 0 4).setWidth 8 := by
    revert w
    decide
  have joined : ∀ x y : Nibble, (x ++ y : Byte) = (x.setWidth 8 <<< 4) ||| y.setWidth 8 := by decide
  rw [masked, masked, ← joined, ← nibble, ← nibble]
  rfl

/-- Settles O15: two probe cycles, whatever two bytes they are answered. -/
theorem bridgeReadsComplete : Obligations.BridgeReadsComplete := by
  intro s i rs h l running tr first allows listed draws
  have accepted : wiresOf s (readCommand rs) = .ok (bridgeTransfer s (readCommand rs)) :=
    wiresOf_bridge tr rfl (.inl first) (by cases rs <;> rfl)
  have calls := callsOf_bridge_read s rs h l
  obtain ⟨events, samples⟩ := bridge_read_answers draws rs
  rw [exec_eq_deliver, encodeCommand_of_readFrom listed,
    deliver_of_allows running accepted (by rw [calls]; exact allows)]
  simp only [State.afterDelivery, calls, events, samples, levelsOfNibble_latchData, envAfter_eq, firstSentAfter, tr,
    readBackOf]
  simp only [readCommand, readBackByte, List.cons_append, List.nil_append, byteOfNibbles_probes, afterBridgeRead,
    List.append_assoc]
  rfl

end Sys2Proof.Machine
end

section
/-! The instructions requested by themselves: where they are refused, where they stop, and what none of them changes. -/
namespace Sys2Proof.Machine
open Sys2Proof.Claim

/-- Settles O6: an idle block takes its oldest request, and a word that decodes is run as its instruction. -/
theorem stepRunsTheDecodedInstruction : Obligations.StepRunsTheDecodedInstruction := by
  intro s w i rs running idle requested decodes
  rw [step_idle_cons running idle requested, State.take]
  simp only [decodes]

/-- Settles O7: the Command of an instruction-write word is its byte, sent like any byte (O8). -/
theorem undecodedWordIsDeliveredUnchanged : Obligations.UndecodedWordIsDeliveredUnchanged := by
  intro s b rs running idle tr allows requested undecoded
  have command : ∀ x : Byte, (WireWord.wide (0b00#2 ++ x)).command = writeCommand .command x := by decide
  rw [step_idle_cons running idle requested, State.take]
  cases decodes : decode (.wide (0b00#2 ++ b)) with
  | ok i => exact absurd decodes (undecoded i)
  | error e =>
    rw [command]
    exact deliver_fourBit_write (s := { s with requests := rs }) running tr allows .command b

/-- Settles O19. -/
theorem haltedBlockDoesNothing : Obligations.HaltedBlockDoesNothing := by
  refine ⟨rfl, ?_, fun _ _ => rfl, ?_⟩
  · intro p passes
    rw [State.construct, passes]
    rfl
  · intro s e halted
    exact ⟨step_halted halted, fun i => by rw [exec_eq_deliver, deliver_halted _ halted]⟩

/-! ## Refusals -/

/-- The bridge refuses any first Command but the bootstrap (R110). -/
theorem wiresOf_bridge_first {s : State} {c : Command} (tr : s.params.transport = .i2cBridge) (wf : c.wellFormed = true)
    (first : s.X.firstCommandSent = false) (other : c ≠ bootstrap) :
    wiresOf s c = .error .i2cFirstCommandNotBootstrap := by
  simp [wiresOf, wf, tr, bridgeWires, requireBootstrap, first, other]

/-- The bridge refuses a Function set with `W = 1` (R109). -/
theorem wiresOf_bridge_eightBit {s : State} {c : Command} (tr : s.params.transport = .i2cBridge)
    (wf : c.wellFormed = true) (first : s.X.firstCommandSent = true) (wide : isEightBitRequest c = true) :
    wiresOf s c = .error .i2cEightBitRequest := by
  simp [wiresOf, wf, tr, bridgeWires, requireBootstrap, first, requireFourBit, wide]

/-- No other instruction has the bootstrap for its Command (R86). -/
theorem encodeCommand_ne_bootstrap {i : Instr} {c : Command} (encodes : encodeCommand i = .ok c)
    (other : i ≠ .halfFunctionSet) : c ≠ bootstrap := by
  rintro rfl
  have half : decode (wordOfCommand bootstrap) = .ok .halfFunctionSet := by decide
  cases half.symm.trans (decode_wordOfCommand encodes)
  exact other rfl

theorem encodeCommand_wellFormed {i : Instr} {c : Command} (encodes : encodeCommand i = .ok c) :
    c.wellFormed = true := by
  cases i with
  | clearDisplay => exact Laws.CommandShape.clearDisplay c encodes
  | returnHome => exact Laws.CommandShape.returnHome c encodes
  | entryModeSet dir shift => exact Laws.CommandShape.entryModeSet dir shift c encodes
  | displayOnOff display cursor blink => exact Laws.CommandShape.displayOnOff display cursor blink c encodes
  | cursorOrDisplayShift shift dir => exact Laws.CommandShape.cursorOrDisplayShift shift dir c encodes
  | halfFunctionSet => exact Laws.CommandShape.halfFunctionSet c encodes
  | functionSet width line font => exact Laws.CommandShape.functionSet width line font c encodes
  | setCGRAM addr => exact Laws.CommandShape.setCGRAM addr c encodes
  | setDDRAM addr => exact Laws.CommandShape.setDDRAM addr c encodes
  | readBusyFlagAndAddress => exact Laws.CommandShape.readBusyFlagAndAddress c encodes
  | writeDataToRAM byte => exact Laws.CommandShape.writeDataToRAM byte c encodes
  | readDataFromRAM => exact Laws.CommandShape.readDataFromRAM c encodes

/-- A delivery of what the encoder refuses. -/
theorem deliver_of_error {s : State} {e : FatalError} (running : s.fatal = none) :
    deliver (.error e) s = .next { s with fatal := some e, result := .nothing, seq := .running 0 none [] } := by
  unfold deliver
  split
  · next halted => rw [running] at halted; cases halted
  · rfl

/-- Settles O16: the three refusals of the transports and the two of the encoder. -/
theorem refusedInstructionsEmitNothing : Obligations.RefusedInstructionsEmitNothing := by
  rintro s i e running
    (⟨tr, rfl, rfl⟩ | ⟨tr, first, wf, other, rfl⟩ | ⟨tr, first, ⟨line, font, rfl⟩, rfl⟩ | ⟨a, out, rfl, rfl⟩
      | ⟨a, out, rfl, rfl⟩) <;>
    rw [exec_eq_deliver]
  · exact deliver_of_refused running (by rw [wiresOf, tr]; rfl)
  · have encodes := encodeCommand_eq_command_encode wf
    rw [encodes]
    exact deliver_of_refused running
      (wiresOf_bridge_first tr (encodeCommand_wellFormed encodes) first (encodeCommand_ne_bootstrap encodes other))
  · exact deliver_of_refused running
      (wiresOf_bridge_eightBit tr rfl first (by cases line <;> cases font <;> decide))
  · rw [show encodeCommand (.setCGRAM a) = _ from encodeSetCGRAM_of_ge out]
    exact deliver_of_error running
  · rw [show encodeCommand (.setDDRAM a) = _ from encodeSetDDRAM_of_ge out]
    exact deliver_of_error running

/-! ## A failing event -/

/-- Settles O17: the whole `send` stops at the failing call, and its state is that after the calls before it. -/
theorem ioFaultStopsAtTheFailingEvent : Obligations.IoFaultStopsAtTheFailingEvent := by
  intro s i c ws k running encodes accepted fails inside
  rw [exec_eq_deliver, encodes, deliver_of_failIn running accepted fails inside]
  refine ⟨_, rfl, rfl, ?_, rfl, rfl, rfl, rfl, rfl, Seq.noConfusion⟩
  rw [raise_trace, State.afterCalls, List.map_append, eventsOf_map_call]
  rfl

/-! ## What no instruction changes -/

/-- What a whole `send` leaves alone, however it ends (R56, R100): everything but the lines of the bus, the read buffer,
the environment and the records. -/
theorem sendNow_frame {s : State} (running : s.fatal = none) (c : Command) :
    (s.sendNow c).X.addr = s.X.addr ∧ (s.sendNow c).X.backlight = s.X.backlight
      ∧ (s.sendNow c).X.level.bl = s.X.level.bl ∧ ∃ es, (s.sendNow c).trace = s.trace ++ es := by
  obtain ⟨e, _, raises⟩ | ⟨ws, k, _, accepted, _, stops⟩ | ⟨ws, accepted, _, completes⟩ := sendNow_outcome running c
  · rw [raises]
    exact ⟨rfl, rfl, rfl, [], (List.append_nil _).symm⟩
  · have bus : ∀ call ∈ (callsOf ws).take k, isBusCall call = true := fun call mem =>
      isBusCall_of_mem_callsOf accepted call (List.mem_of_mem_take mem)
    rw [stops]
    exact ⟨rfl, rfl, linesAfter_bl bus _, _, rfl⟩
  · rw [completes]
    exact ⟨rfl, rfl, linesAfter_bl (isBusCall_of_mem_callsOf accepted) _, _, rfl⟩

/-- A delivery changes of the block what its whole `send` changes. -/
theorem deliver_frame {c : Except FatalError Command} {s t : State} (h : deliver c s = .next t) :
    t.X.addr = s.X.addr ∧ t.X.backlight = s.X.backlight ∧ t.X.level.bl = s.X.level.bl
      ∧ ∃ es, t.trace = s.trace ++ es := by
  cases running : s.fatal with
  | some e => rw [deliver_halted c running] at h; cases h
  | none =>
    cases c with
    | error e =>
      rw [deliver_of_error running] at h
      cases h
      exact ⟨rfl, rfl, rfl, [], (List.append_nil _).symm⟩
    | ok c =>
      have frame := sendNow_frame (s := s.opening) running c
      cases ends : (s.opening.sendNow c).fatal with
      | none => rw [deliver_of_completes running ends] at h; cases h; exact frame
      | some e => rw [deliver_of_halts running ends] at h; cases h; exact frame

/-- Settles O18: an instruction by itself is a delivery (R7, R60). -/
theorem instructionsLeaveTheShadowAlone : Obligations.InstructionsLeaveTheShadowAlone := by
  intro i s t next
  rw [exec_eq_deliver] at next
  obtain ⟨shadow, params, poll, requests⟩ := deliver_shadow next
  exact ⟨shadow, poll, params, requests, deliver_frame next⟩

end Sys2Proof.Machine
end

section
/-! DDRAM addresses (R44) and relative offsets (R137). -/
namespace Sys2Proof.Machine
open Sys2Proof.Claim

/-- The address of the last column of the last row (R44). -/
def lastAddress : LineMode → Nat
  | .oneLine => 0x4F
  | .twoLine => 0x67

theorem ddramAddr_le_lastAddress {m : LineMode} {p : Pos} (valid : inBounds m p = true) :
    ddramAddr m p ≤ lastAddress m := by
  obtain ⟨hcol, hrow⟩ := inBounds_iff.mp valid
  cases m <;> simp only [lineCapacity, rowCount, ddramAddr, lastAddress] at hcol hrow ⊢ <;> omega

theorem ddramAddr_lt {m : LineMode} {p : Pos} (valid : inBounds m p = true) : ddramAddr m p < 128 :=
  lt_of_le_of_lt (ddramAddr_le_lastAddress valid) (by cases m <;> decide)

/-- Two positions in bounds have two addresses: the row is bit 6, the column is below it. -/
theorem ddramAddr_injective {m : LineMode} {p q : Pos} (hp : inBounds m p = true) (hq : inBounds m q = true)
    (same : ddramAddr m p = ddramAddr m q) : p = q := by
  obtain ⟨pcol, prow⟩ := inBounds_iff.mp hp
  obtain ⟨qcol, qrow⟩ := inBounds_iff.mp hq
  obtain ⟨c, r⟩ := p
  obtain ⟨c', r'⟩ := q
  cases m <;> simp only [lineCapacity, rowCount, ddramAddr] at * <;> rw [Pos.mk.injEq] <;> omega

theorem setDdramByte_eq (m : LineMode) (p : Pos) : setDdramByte m p = BitVec.ofNat 8 (0x80 + ddramAddr m p) := by
  cases m <;> simp only [setDdramByte, ddramAddr, Nat.add_assoc]

theorem encodeSetDDRAM_ddramAddr {m : LineMode} {p : Pos} (valid : inBounds m p = true) :
    encodeSetDDRAM (ddramAddr m p) = .ok (instruction (setDdramByte m p)) := by
  rw [encodeSetDDRAM_of_lt (ddramAddr_lt valid), setDdramByte_eq]

/-- Settles O21. -/
theorem ddramAddrFollowsItsRule : Obligations.DdramAddrFollowsItsRule :=
  ⟨fun _ => rfl, fun _ => rfl,
    fun m _ valid => ⟨ddramAddr_lt valid, by cases m <;> exact ddramAddr_le_lastAddress valid,
      encodeSetDDRAM_ddramAddr valid⟩,
    fun _ _ _ => ddramAddr_injective⟩

/-! ## Offsets, by their checks (R137) -/

/-- Whether a row is passed: the column of the move lies outside the line (R137). -/
def rowCarry (c : Int) : Nat := if 0 ≤ c ∧ c < 40 then 0 else 1

theorem calculatePos_of_not_inBounds {m : LineMode} {p : Pos} (dx dy : Int) (out : inBounds m p = false) :
    calculatePos m p dx dy = .error (.posOutOfRange p) := by
  simp [calculatePos, out]

theorem calculatePos_of_dx {m : LineMode} {p : Pos} {dx : Int} (dy : Int) (valid : inBounds m p = true)
    (far : (lineCapacity m : Int) ≤ |dx|) : calculatePos m p dx dy = .error (.offsetOutOfRange (.delta dx dy)) := by
  have far : lineCapacity m ≤ dx.natAbs := by rw [Int.abs_eq_natAbs] at far; exact_mod_cast far
  simp [calculatePos, valid, far]

theorem calculatePos_twoLine_of_dy {p : Pos} {dx dy : Int} (valid : inBounds .twoLine p = true) (near : |dx| < 40)
    (far : 1 < |dy|) : calculatePos .twoLine p dx dy = .error (.offsetOutOfRange (.delta dx dy)) := by
  rw [Int.abs_eq_natAbs] at near far
  have near : dx.natAbs < lineCapacity .twoLine := by rw [lineCapacity]; omega
  have far : ¬ dy.natAbs ≤ 1 := by omega
  simp [calculatePos, valid, near, far]

theorem calculatePos_oneLine_of_dy {p : Pos} {dx dy : Int} (valid : inBounds .oneLine p = true) (near : |dx| < 80)
    (moves : dy ≠ 0) : calculatePos .oneLine p dx dy = .error (.offsetOutOfRange (.delta dx dy)) := by
  rw [Int.abs_eq_natAbs] at near
  have near : dx.natAbs < lineCapacity .oneLine := by rw [lineCapacity]; omega
  simp [calculatePos, valid, near, moves]

/-- Two lines: the column wraps in 40, and a wrap in either direction passes to the other row, as does `dy`. -/
theorem calculatePos_twoLine {p : Pos} {dx dy : Int} (valid : inBounds .twoLine p = true) (near : |dx| < 40)
    (dyNear : |dy| ≤ 1) :
    calculatePos .twoLine p dx dy
      = .ok { col := ((p.col + dx) % 40).toNat, row := (p.row + dy.natAbs + rowCarry (p.col + dx)) % 2 } := by
  rw [Int.abs_eq_natAbs] at near dyNear
  have dxNear : dx.natAbs < 40 := by omega
  have dyNear : dy.natAbs ≤ 1 := by omega
  obtain ⟨hcol, -⟩ := inBounds_iff.mp valid
  rw [lineCapacity] at hcol
  rcases lt_or_ge (p.col + dx) 0 with below | notBelow
  · have notAbove : ¬ 40 ≤ p.col + dx := by omega
    have notInside : ¬ 0 ≤ p.col + dx := by omega
    simp [calculatePos, valid, lineCapacity, dxNear, dyNear, rowCarry, below, notAbove, notInside]
    omega
  · rcases lt_or_ge (p.col + dx) 40 with inside | above
    · have notAbove : ¬ 40 ≤ p.col + dx := by omega
      have notBelow' : ¬ p.col + dx < 0 := by omega
      simp [calculatePos, valid, lineCapacity, dxNear, dyNear, rowCarry, inside, notBelow, notAbove, notBelow']
      omega
    · have notInside : ¬ p.col + dx < 40 := by omega
      simp [calculatePos, valid, lineCapacity, dxNear, dyNear, rowCarry, above, notInside]
      omega

/-- One line: the column wraps in 80. -/
theorem calculatePos_oneLine {p : Pos} {dx : Int} (valid : inBounds .oneLine p = true) (near : |dx| < 80) :
    calculatePos .oneLine p dx 0 = .ok { col := ((p.col + dx) % 80).toNat, row := 0 } := by
  rw [Int.abs_eq_natAbs] at near
  have near : dx.natAbs < 80 := by omega
  simp [calculatePos, valid, near, lineCapacity]

/-- An accepted offset met its checks. -/
theorem calculatePos_ok_cases {m : LineMode} {p q : Pos} {dx dy : Int} (accepted : calculatePos m p dx dy = .ok q) :
    inBounds m p = true ∧ |dx| < lineCapacity m ∧
      ((m = .twoLine ∧ |dy| ≤ 1) ∨ (m = .oneLine ∧ dy = 0)) := by
  cases valid : inBounds m p with
  | false => rw [calculatePos_of_not_inBounds dx dy valid] at accepted; cases accepted
  | true =>
    rcases lt_or_ge |dx| (lineCapacity m : Int) with near | far
    · refine ⟨rfl, near, ?_⟩
      cases m with
      | twoLine =>
        rcases le_or_gt |dy| 1 with dyNear | dyFar
        · exact .inl ⟨rfl, dyNear⟩
        · rw [calculatePos_twoLine_of_dy valid near dyFar] at accepted; cases accepted
      | oneLine =>
        by_cases moves : dy = 0
        · exact .inr ⟨rfl, moves⟩
        · rw [calculatePos_oneLine_of_dy valid near moves] at accepted; cases accepted
    · rw [calculatePos_of_dx dy valid far] at accepted; cases accepted

theorem calculatePos_inBounds {m : LineMode} {p q : Pos} {dx dy : Int} (accepted : calculatePos m p dx dy = .ok q) :
    inBounds m q = true := by
  obtain ⟨valid, near, ⟨rfl, dyNear⟩ | ⟨rfl, rfl⟩⟩ := calculatePos_ok_cases accepted
  · rw [calculatePos_twoLine valid near dyNear] at accepted
    cases accepted
    rw [inBounds_iff]
    simp only [lineCapacity, rowCount]
    omega
  · rw [calculatePos_oneLine valid near] at accepted
    cases accepted
    rw [inBounds_iff]
    simp only [lineCapacity, rowCount]
    omega

/-- An offset and then its negation return to the start: the column comes back, and the row was passed as often there as
here. -/
theorem calculatePos_neg {m : LineMode} {p q : Pos} {dx dy : Int} (accepted : calculatePos m p dx dy = .ok q) :
    calculatePos m q (-dx) (-dy) = .ok p := by
  have valid' := calculatePos_inBounds accepted
  obtain ⟨valid, near, ⟨rfl, dyNear⟩ | ⟨rfl, rfl⟩⟩ := calculatePos_ok_cases accepted
  · rw [calculatePos_twoLine valid near dyNear] at accepted
    cases accepted
    rw [calculatePos_twoLine valid' (by rwa [abs_neg]) (by rwa [abs_neg])]
    obtain ⟨hcol, hrow⟩ := inBounds_iff.mp valid
    obtain ⟨c, r⟩ := p
    simp only [lineCapacity, rowCount] at hcol hrow near
    simp only [Except.ok.injEq, Pos.mk.injEq, rowCarry]
    constructor
    · omega
    · split <;> split <;> omega
  · rw [calculatePos_oneLine valid near] at accepted
    cases accepted
    rw [neg_zero, calculatePos_oneLine valid' (by rwa [abs_neg])]
    obtain ⟨hcol, hrow⟩ := inBounds_iff.mp valid
    obtain ⟨c, r⟩ := p
    simp only [lineCapacity, rowCount] at hcol hrow near
    simp only [Except.ok.injEq, Pos.mk.injEq]
    constructor <;> omega

/-- Settles O23: no offset takes neither a column nor a row, and the second property is `calculatePos_neg`. -/
theorem offsetsCanBeUndone : Obligations.OffsetsCanBeUndone := by
  refine ⟨fun m p valid => ?_, fun m p dx dy q => calculatePos_neg⟩
  obtain ⟨hcol, hrow⟩ := inBounds_iff.mp valid
  cases m with
  | twoLine =>
    rw [calculatePos_twoLine valid (by norm_num) (by norm_num)]
    simp only [lineCapacity, rowCount, rowCarry] at *
    rw [if_pos (by omega)]
    obtain ⟨c, r⟩ := p
    simp only [Except.ok.injEq, Pos.mk.injEq] at *
    omega
  | oneLine =>
    rw [calculatePos_oneLine valid (by norm_num)]
    simp only [lineCapacity, rowCount] at *
    obtain ⟨c, r⟩ := p
    simp only [Except.ok.injEq, Pos.mk.injEq] at *
    omega

/-- A requested operation whose first check fails halts the block with nothing assigned (R191). -/
theorem step_of_asked_error {s : State} {o : Op} {rs : List Request} {e : FatalError} (h : Asked s o rs)
    (start : startOp o (s.taking rs) = .error e) : step s = .next (refusedWith s rs e) := by
  rw [step_of_asked h, State.begin, start]
  rfl

/-- Settles O22, check by check, then the two results. -/
theorem calculatePosFollowsItsRule : Obligations.CalculatePosFollowsItsRule := by
  refine ⟨fun _ _ dx dy => calculatePos_of_not_inBounds dx dy, fun _ _ _ dy => calculatePos_of_dx dy,
    fun _ _ _ => calculatePos_twoLine_of_dy, fun _ _ _ => calculatePos_oneLine_of_dy, ?_, ?_,
    fun _ _ _ _ _ => calculatePos_inBounds, ?_⟩
  · intro p dx dy valid near dyNear
    obtain ⟨hcol, hrow⟩ := inBounds_iff.mp valid
    simp only [lineCapacity] at hcol
    have dxNear := abs_lt.mp near
    refine ⟨_, calculatePos_twoLine valid near dyNear, fun inside => ?_, fun above => ?_, fun below => ?_⟩
    · rw [rowCarry, if_pos inside]
      exact ⟨by dsimp only; omega, rfl⟩
    · rw [rowCarry, if_neg (by omega)]
      exact ⟨by dsimp only; omega, rfl⟩
    · rw [rowCarry, if_neg (by omega)]
      exact ⟨by dsimp only; omega, rfl⟩
  · intro p dx valid near
    refine ⟨_, calculatePos_oneLine valid near, ?_, rfl⟩
    simp only
    omega
  · intro s p dx dy rs asked
    refine ⟨fun q accepted => step_of_asked_returnNow asked ?_, fun e refused => step_of_asked_error asked ?_⟩
    · simp only [startOp, startCalculatePosByOffset, State.taking, accepted]
    · simp only [startOp, startCalculatePosByOffset, State.taking, refused]

end Sys2Proof.Machine
end

section
/-! Plans of a window shift (R178): the offset after a number of single steps, and the number of steps to a target. -/
namespace Sys2Proof.Machine
open Sys2Proof.Claim

/-- Single steps add up, modulo the line capacity (R136). -/
theorem iterate_shiftOffset (st : OffsetStep) {m : LineMode} {cur : Nat} (d : Direction) (n : Nat)
    (valid : cur < lineCapacity m) :
    ((Nat.iterate (fun o => shiftOffset st m o d) n cur : Nat) : Int) = (cur + n * sigma st d) % lineCapacity m := by
  have capacity := lineCapacity_pos m
  induction n with
  | zero => rw [Nat.cast_zero, zero_mul, add_zero, Int.emod_eq_of_lt (by omega) (by omega)]; rfl
  | succ n ih =>
    rw [Function.iterate_succ_apply', shiftOffset, ih, Int.toNat_of_nonneg (Int.emod_nonneg _ (by omega)),
      Int.emod_add_emod, Nat.cast_succ]
    congr 1
    ring

/-- Steps that add up to the target reach it. -/
theorem iterate_shiftOffset_eq {st : OffsetStep} {m : LineMode} {cur tgt n : Nat} {d : Direction}
    (valid : cur < lineCapacity m) (reaches : ((cur : Int) + n * sigma st d) % lineCapacity m = tgt) :
    Nat.iterate (fun o => shiftOffset st m o d) n cur = tgt := by
  have sum := iterate_shiftOffset st d n valid
  rw [reaches] at sum
  exact_mod_cast sum

/-- The steps in a direction, in either form of the distance to go (R178). -/
theorem stepsTo_cast (st : OffsetStep) (m : LineMode) (cur tgt : Nat) (d : Direction) :
    (stepsTo st m cur tgt d : Int) = (((tgt : Int) - cur) * sigma st d) % lineCapacity m :=
  Int.toNat_of_nonneg (Int.emod_nonneg _ (by have := lineCapacity_pos m; omega))

theorem stepsTo_lt (st : OffsetStep) (m : LineMode) (cur tgt : Nat) (d : Direction) :
    stepsTo st m cur tgt d < lineCapacity m := by
  have capacity := lineCapacity_pos m
  have below := Int.emod_lt_of_pos (((tgt : Int) - cur) * sigma st d) (show (0 : Int) < lineCapacity m by omega)
  rw [← stepsTo_cast] at below
  exact_mod_cast below

/-- The steps in a direction add up to the target. -/
theorem stepsTo_reaches (st : OffsetStep) {m : LineMode} {cur tgt : Nat} (htgt : tgt < lineCapacity m) (d : Direction) :
    ((cur : Int) + stepsTo st m cur tgt d * sigma st d) % lineCapacity m = tgt := by
  have square : sigma st d * sigma st d = 1 := by cases st <;> cases d <;> rfl
  have unreduced := ((Int.mod_modEq (((tgt : Int) - cur) * sigma st d) (lineCapacity m)).mul_right
    (sigma st d)).add_left cur
  rw [← stepsTo_cast, mul_assoc, square, mul_one, add_sub_cancel] at unreduced
  rw [unreduced, Int.emod_eq_of_lt (by omega) (by omega)]

/-- The direct move adds up to the target without a wrap. -/
theorem directDirection_reaches (st : OffsetStep) {m : LineMode} {cur tgt : Nat} (htgt : tgt < lineCapacity m) :
    ((cur : Int) + ((tgt : Int) - cur).natAbs * sigma st (directDirection st cur tgt)) % lineCapacity m = tgt := by
  have move : (((tgt : Int) - cur).natAbs : Int) * sigma st (directDirection st cur tgt) = tgt - cur := by
    cases st <;> simp only [directDirection] <;> split <;> simp only [sigma, offsetStep] <;> omega
  rw [move, add_sub_cancel, Int.emod_eq_of_lt (by omega) (by omega)]

/-- `Shortest` takes the steps of one of the two directions, whichever it plans (R178). -/
theorem planShift_shortest_steps (st : OffsetStep) (m : LineMode) (cur tgt : Nat) :
    (planShift st m cur tgt .shortest).1 = stepsTo st m cur tgt (planShift st m cur tgt .shortest).2 := by
  simp only [planShift]
  split
  · rfl
  · split
    · rfl
    · cases directDirection st cur tgt
      · rfl
      · dsimp only
        omega

/-- Each plan's steps add up to the target. -/
theorem planShift_reaches (st : OffsetStep) {m : LineMode} {cur tgt : Nat} (htgt : tgt < lineCapacity m)
    (strategy : Strategy) :
    ((cur : Int) + (planShift st m cur tgt strategy).1 * sigma st (planShift st m cur tgt strategy).2) % lineCapacity m
      = tgt := by
  cases strategy with
  | forceLeft => exact stepsTo_reaches st htgt .rightToLeft
  | forceRight => exact stepsTo_reaches st htgt .leftToRight
  | noBoundaryCross => exact directDirection_reaches st htgt
  | shortest => rw [planShift_shortest_steps]; exact stepsTo_reaches st htgt _

theorem planShift_lt (st : OffsetStep) {m : LineMode} {cur tgt : Nat} (hcur : cur < lineCapacity m)
    (htgt : tgt < lineCapacity m) (strategy : Strategy) : (planShift st m cur tgt strategy).1 < lineCapacity m := by
  cases strategy with
  | forceLeft => exact stepsTo_lt st m cur tgt .rightToLeft
  | forceRight => exact stepsTo_lt st m cur tgt .leftToRight
  | noBoundaryCross => simp only [planShift]; omega
  | shortest => rw [planShift_shortest_steps]; exact stepsTo_lt st m cur tgt _

theorem planShift_iterate (st : OffsetStep) {m : LineMode} {cur tgt : Nat} (hcur : cur < lineCapacity m)
    (htgt : tgt < lineCapacity m) (strategy : Strategy) :
    Nat.iterate (fun o => shiftOffset st m o (planShift st m cur tgt strategy).2)
      (planShift st m cur tgt strategy).1 cur = tgt :=
  iterate_shiftOffset_eq hcur (planShift_reaches st htgt strategy)

/-- The two directions go round the line together. -/
theorem stepsTo_add_stepsTo (st : OffsetStep) {m : LineMode} {cur tgt : Nat} (hcur : cur < lineCapacity m)
    (htgt : tgt < lineCapacity m) (moves : cur ≠ tgt) :
    stepsTo st m cur tgt .leftToRight + stepsTo st m cur tgt .rightToLeft = lineCapacity m := by
  have l := stepsTo_cast st m cur tgt .leftToRight
  have r := stepsTo_cast st m cur tgt .rightToLeft
  cases st <;> cases m <;> simp only [sigma, offsetStep, lineCapacity] at * <;> omega

/-- Half way round, each direction takes as many steps as the direct move. -/
theorem stepsTo_eq_natAbs_of_half (st : OffsetStep) {m : LineMode} {cur tgt : Nat} (hcur : cur < lineCapacity m)
    (htgt : tgt < lineCapacity m) (half : 2 * stepsTo st m cur tgt .leftToRight = lineCapacity m) :
    stepsTo st m cur tgt .leftToRight = ((tgt : Int) - cur).natAbs := by
  have l := stepsTo_cast st m cur tgt .leftToRight
  cases st <;> cases m <;> simp only [sigma, offsetStep, lineCapacity] at * <;> omega

theorem directDirection_eq_leftToRight_iff (st : OffsetStep) {cur tgt : Nat} (moves : cur ≠ tgt) :
    directDirection st cur tgt = .leftToRight ↔ (cur < tgt ↔ st = .plusOne) := by
  cases st <;> rcases lt_or_gt_of_ne moves with up | down <;> simp [directDirection, *]

/-- Settles O26: the plans reach their target, and the two directions of `Shortest` share the line between them. -/
theorem windowShiftPlansReachTheirTarget : Obligations.WindowShiftPlansReachTheirTarget := by
  intro st m cur tgt hcur htgt moves
  have round := stepsTo_add_stepsTo st hcur htgt moves
  refine ⟨fun strategy => ⟨planShift_iterate st hcur htgt strategy, planShift_lt st hcur htgt strategy⟩, rfl, rfl, ?_,
    directDirection_eq_leftToRight_iff st moves, ?_, ?_⟩
  · exact (Int.abs_eq_natAbs _).symm
  · simp only [planShift]
    split
    · dsimp only; omega
    · split <;> dsimp only <;> omega
  · intro half
    simp only [planShift] at half ⊢
    split at half
    · dsimp only at half; omega
    · split at half
      · dsimp only at half; omega
      · rw [if_neg ‹_›, if_neg ‹_›, stepsTo_eq_natAbs_of_half st hcur htgt half]

end Sys2Proof.Machine
end

section
/-! The first step of a requested operation (R130, R191): the shadow assigned and actions to come, or the error of the
first check that fails. -/
namespace Sys2Proof.Machine
open Sys2Proof.Claim

/-- The state with another shadow. -/
def State.assign (s : State) (S : DisplayState) : State := { s with S := S }

/-- An operation whose start assigns the shadow and leaves actions to do. -/
theorem step_of_asked_begun {s : State} {o : Op} {rs : List Request} {S : DisplayState} {m : Micro} {ms : List Micro}
    (h : Asked s o rs) (start : startOp o (s.taking rs) = .ok ((s.taking rs).assign S, m :: ms)) :
    step s = .next (begun s rs S (m :: ms)) := by
  have ⟨running, _, _⟩ := h
  have started : (s.taking rs).begin o = begun s rs S (m :: ms) := by
    rw [State.begin, start]
    simp [State.push, State.assign, State.taking, Seq.start, Seq.push, begun]
  rw [step_of_asked h, started, State.settle]
  simp only [begun, running]

/-- Where the start assigns the shadow and leaves nothing to do, the operation ends in the same step. -/
theorem step_of_asked_done {s : State} {o : Op} {rs : List Request} {S : DisplayState} (h : Asked s o rs)
    (start : startOp o (s.taking rs) = .ok ((s.taking rs).assign S, [])) :
    step s = .next { s with requests := rs, result := .nothing, S := S } := by
  have ⟨running, idle, _⟩ := h
  have started : (s.taking rs).begin o = (s.taking rs).assign S := by
    rw [State.begin, start]
    rfl
  rw [step_of_asked h, started, settle_of_no_action_left (s := (s.taking rs).assign S) (n := 0) (st := none) running rfl, State.assign, State.taking,
    ← idle]

/-! ## Addressing (R138 to R140) -/

/-- `set_cursor_pos` within bounds (R138). -/
theorem startSetCursorPos_of_inBounds {p : Pos} {s : State} (valid : inBounds s.S.lineMode p = true) :
    startSetCursorPos p s
      = assignThenSend s { s.S with cursorPos := p, ramType := .ddram } (instruction (setDdramByte s.S.lineMode p)) := by
  simp only [startSetCursorPos, valid, not_true_eq_false, if_false, encodeSetDDRAM_ddramAddr valid]

theorem startSetCursorPos_of_not_inBounds {p : Pos} {s : State} (out : inBounds s.S.lineMode p = false) :
    startSetCursorPos p s = .error (.posOutOfRange p) := by
  simp [startSetCursorPos, out]

/-- `set_cgram_addr` in range (R139). -/
theorem startSetCgramAddr_of_lt {a : Nat} {s : State} (inRange : a < 64) :
    startSetCgramAddr a s
      = assignThenSend s { s.S with ramType := .cgram } (instruction (BitVec.ofNat 8 (0x40 + a))) := by
  simp only [startSetCgramAddr, encodeSetCGRAM_of_lt inRange]

/-- The cursor half of `shift_cursor_or_display` (R135, R140). -/
theorem startShift_cursorOnly (d : Direction) (s : State) :
    startShiftCursorOrDisplay .cursorOnly d s
      = assignThenSend s { s.S with cursorPos := stepPos s.S.lineMode s.S.cursorPos d }
          (instruction (shiftByte .cursorOnly d)) := by
  rw [startShiftCursorOrDisplay, encodeCursorOrDisplayShift_eq]

/-- The display half (R136, R140). -/
theorem startShift_cursorAndDisplay (d : Direction) (s : State) :
    startShiftCursorOrDisplay .cursorAndDisplay d s
      = assignThenSend s
          { s.S with displayOffset := shiftOffset s.params.offsetStepLtr s.S.lineMode s.S.displayOffset d }
          (instruction (shiftByte .cursorAndDisplay d)) := by
  rw [startShiftCursorOrDisplay, encodeCursorOrDisplayShift_eq]

theorem sigma_eq (st : OffsetStep) (d : Direction) :
    sigma st d = if (d = .leftToRight) = (st = .plusOne) then 1 else -1 := by
  cases st <;> cases d <;> simp [sigma, offsetStep]

/-- The window offset after one shift, over the integers (R136). -/
theorem shiftOffset_cast (st : OffsetStep) (m : LineMode) (o : Nat) (d : Direction) :
    (shiftOffset st m o d : Int) = ((o : Int) + sigma st d) % lineCapacity m :=
  Int.toNat_of_nonneg (Int.emod_nonneg _ (by have := lineCapacity_pos m; omega))

/-- Settles O27, from the starts of the three operations. -/
theorem addressingOperationsAssignThenSend : Obligations.AddressingOperationsAssignThenSend := by
  intro s rs
  refine ⟨fun p asked => ⟨fun valid => ?_, fun out => ?_⟩, fun a asked => ⟨fun inRange => ?_, fun out => ?_⟩,
    fun d asked => ?_, fun d asked => ?_⟩
  · exact step_of_asked_begun asked (startSetCursorPos_of_inBounds valid)
  · exact step_of_asked_error asked (startSetCursorPos_of_not_inBounds out)
  · exact step_of_asked_begun asked (startSetCgramAddr_of_lt inRange)
  · exact step_of_asked_error asked (by simp only [startOp, startSetCgramAddr, encodeSetCGRAM_of_ge out])
  · exact step_of_asked_begun asked (startShift_cursorOnly d _)
  · refine ⟨_, ?_, step_of_asked_begun asked (startShift_cursorAndDisplay d _)⟩
    rw [← sigma_eq]
    exact shiftOffset_cast _ _ _ _

/-! ## The setters (R141 to R147) -/

theorem fontLineOk_iff {m : LineMode} {f : Font} : fontLineOk m f = true ↔ ¬ (m = .twoLine ∧ f = .font5x11) := by
  cases m <;> cases f <;> decide

/-- `set_line_mode`, both its checks passed (R141). -/
theorem startSetLineMode_of_ok {m : LineMode} {s : State} (font : fontLineOk m s.S.font = true)
    (within : positionsWithin m s.S = true) :
    startSetLineMode m s
      = assignThenSend s { s.S with lineMode := m } (instruction (functionSetByte { s.S with lineMode := m })) := by
  simp only [startSetLineMode, font, within, not_true_eq_false, if_false, functionSetCommand_eq]

/-- `set_font`, its check passed (R142). -/
theorem startSetFont_of_ok {f : Font} {s : State} (font : fontLineOk s.S.lineMode f = true) :
    startSetFont f s = assignThenSend s { s.S with font := f } (instruction (functionSetByte { s.S with font := f })) := by
  simp only [startSetFont, font, not_true_eq_false, if_false, functionSetCommand_eq]

theorem startSetDisplayOn_eq (v : Switch) (s : State) :
    startSetDisplayOn v s
      = assignThenSend s { s.S with displayOn := v } (instruction (displayControlByte { s.S with displayOn := v })) := by
  rw [← displayControlCommand_eq, startSetDisplayOn]

theorem startSetCursorOn_eq (v : Switch) (s : State) :
    startSetCursorOn v s
      = assignThenSend s { s.S with cursorOn := v } (instruction (displayControlByte { s.S with cursorOn := v })) := by
  rw [← displayControlCommand_eq, startSetCursorOn]

theorem startSetCursorBlink_eq (v : Switch) (s : State) :
    startSetCursorBlink v s
      = assignThenSend s { s.S with cursorBlink := v }
          (instruction (displayControlByte { s.S with cursorBlink := v })) := by
  rw [← displayControlCommand_eq, startSetCursorBlink]

theorem startSetDirection_eq (d : Direction) (s : State) :
    startSetDirection d s
      = assignThenSend s { s.S with direction := d } (instruction (entryModeByte { s.S with direction := d })) := by
  rw [← entryModeCommand_eq, startSetDirection]

theorem startSetShiftType_eq (t : ShiftType) (s : State) :
    startSetShiftType t s
      = assignThenSend s { s.S with shiftType := t } (instruction (entryModeByte { s.S with shiftType := t })) := by
  rw [← entryModeCommand_eq, startSetShiftType]

/-- Settles O28, setter by setter. -/
theorem settersAssignThenSend : Obligations.SettersAssignThenSend := by
  intro s rs
  refine ⟨fun m asked => ⟨fun bad => ?_, fun ok out => ?_, fun ok within => ?_⟩,
    fun f asked => ⟨fun bad => ?_, fun ok => ?_⟩, fun v asked => ?_, fun v asked => ?_, fun v asked => ?_,
    fun d asked => ?_, fun t asked => ?_⟩
  · have font : fontLineOk m s.S.font = false := by rwa [← Bool.not_eq_true, fontLineOk_iff, not_not]
    exact step_of_asked_error asked (by simp [startOp, startSetLineMode, State.taking, font])
  · have font : fontLineOk m s.S.font = true := fontLineOk_iff.mpr ok
    exact step_of_asked_error asked (by simp [startOp, startSetLineMode, State.taking, font, out])
  · exact step_of_asked_begun asked (startSetLineMode_of_ok (fontLineOk_iff.mpr ok) within)
  · have font : fontLineOk s.S.lineMode f = false := by rwa [← Bool.not_eq_true, fontLineOk_iff, not_not]
    exact step_of_asked_error asked (by simp [startOp, startSetFont, State.taking, font])
  · exact step_of_asked_begun asked (startSetFont_of_ok (fontLineOk_iff.mpr ok))
  · exact step_of_asked_begun asked (startSetDisplayOn_eq v _)
  · exact step_of_asked_begun asked (startSetCursorOn_eq v _)
  · exact step_of_asked_begun asked (startSetCursorBlink_eq v _)
  · exact step_of_asked_begun asked (startSetDirection_eq d _)
  · exact step_of_asked_begun asked (startSetShiftType_eq t _)

/-! ## Clear, home and the transfers at the cursor (R154 to R157, R159) -/

theorem requireDdram_of_ddram {S : DisplayState} (ddram : S.ramType = .ddram) : requireDdram S = .ok () :=
  if_pos ddram

theorem requireDdram_of_cgram {S : DisplayState} (cgram : S.ramType = .cgram) :
    requireDdram S = .error .wrongRamSpace :=
  if_neg (by rw [cgram]; exact RamType.noConfusion)

theorem startWriteU8ToCur_of_ddram {s : State} (ddram : s.S.ramType = .ddram) (b : Byte) :
    startWriteU8ToCur b s = .ok (s, [.waitIdle (dataWrite b), .stepCursor]) := by
  rw [startWriteU8ToCur, requireDdram_of_ddram ddram]
  rfl

theorem startReadU8FromCur_of_ddram {s : State} (ddram : s.S.ramType = .ddram) :
    startReadU8FromCur s = .ok (s, [.waitIdle (readCommand .data), .stepCursor, .returnSent]) := by
  rw [startReadU8FromCur, requireDdram_of_ddram ddram]
  rfl

theorem startWriteCharToCur_of_ddram {s : State} (ddram : s.S.ramType = .ddram) (ch : Char) :
    startWriteCharToCur ch s = .ok (s, [.call (.writeU8ToCur (charByte ch))]) := by
  rw [startWriteCharToCur, requireDdram_of_ddram ddram]

/-- Settles O29, operation by operation; a transfer is refused in CGRAM space (R197). -/
theorem facadeOperationsBeginAsTheirRulesSay : Obligations.FacadeOperationsBeginAsTheirRulesSay := by
  intro s rs
  refine ⟨fun asked => step_of_asked_begun asked rfl, fun asked => step_of_asked_begun asked rfl,
    fun b asked => ⟨fun ddram => ?_, fun cgram => ?_⟩, fun asked => ⟨fun ddram => ?_, fun cgram => ?_⟩,
    fun ch asked => ⟨fun ddram => ?_, fun cgram => ?_⟩⟩
  · exact step_of_asked_begun asked (startWriteU8ToCur_of_ddram (s := s.taking rs) ddram b)
  · exact step_of_asked_error asked (by rw [startOp, startWriteU8ToCur, requireDdram_of_cgram (S := (s.taking rs).S) cgram])
  · exact step_of_asked_begun asked (startReadU8FromCur_of_ddram (s := s.taking rs) ddram)
  · exact step_of_asked_error asked (by rw [startOp, startReadU8FromCur, requireDdram_of_cgram (S := (s.taking rs).S) cgram])
  · exact step_of_asked_begun asked (startWriteCharToCur_of_ddram (s := s.taking rs) ddram ch)
  · exact step_of_asked_error asked (by rw [startOp, startWriteCharToCur, requireDdram_of_cgram (S := (s.taking rs).S) cgram])

/-! ## The remaining checks (R191 to R207) -/

theorem flapPrintable_iff {ch : Char} : flapPrintable ch = true ↔ 0x20 ≤ ch.toNat ∧ ch.toNat ≤ 0x7D := by
  simp [flapPrintable]

/-- The first unprintable character of a text is the one the checks of R172 report. -/
theorem splitFlapError_of_unprintable {before after : List Char} {ch : Char} (S : DisplayState)
    (printable : ∀ x ∈ before, 0x20 ≤ x.toNat ∧ x.toNat ≤ 0x7D) (bad : ch.toNat < 0x20 ∨ 0x7D < ch.toNat) :
    splitFlapError (before ++ ch :: after) S = some (.nonPrintableInSplitFlap ch) := by
  have skipped : before.find? (fun x => !flapPrintable x) = none := by
    simpa [List.find?_eq_none, flapPrintable_iff] using printable
  have found : (!flapPrintable ch) = true := by
    rw [Bool.not_eq_true', ← Bool.not_eq_true, flapPrintable_iff]
    omega
  simp [splitFlapError, List.find?_append, skipped, List.find?_cons_of_pos, found]

/-- A printable text passes the first check of R172. -/
theorem splitFlapError_of_printable {text : List Char} (S : DisplayState)
    (printable : ∀ x ∈ text, 0x20 ≤ x.toNat ∧ x.toNat ≤ 0x7D) :
    splitFlapError text S = if S.ramType = .ddram then none else some .wrongRamSpace := by
  have none_found : text.find? (fun x => !flapPrintable x) = none := by
    simpa [List.find?_eq_none, flapPrintable_iff] using printable
  rw [splitFlapError, none_found]

/-- The row check reports the lowest bad row (R199). -/
theorem badRow_append {before : List Byte} (k : Nat) {r : Byte} (after : List Byte)
    (good : ∀ x ∈ before, x.toNat ≤ 0x1F) (bad : 0x1F < r.toNat) :
    badRow k (before ++ r :: after) = some (k + before.length, r) := by
  induction before generalizing k with
  | nil => exact if_neg (by omega)
  | cons x before ih =>
    obtain ⟨first, rest⟩ := List.forall_mem_cons.mp good
    rw [List.cons_append, badRow, if_pos first, ih (k + 1) rest, List.length_cons]
    congr 2
    omega

theorem badRow_of_good {rows : List Byte} (k : Nat) (good : ∀ x ∈ rows, x.toNat ≤ 0x1F) : badRow k rows = none := by
  induction rows generalizing k with
  | nil => rfl
  | cons x rows ih =>
    obtain ⟨first, rest⟩ := List.forall_mem_cons.mp good
    rw [badRow, if_pos first, ih _ rest]

/-- Glyph rows cut at the first bad one. -/
theorem badRow_of_lowest {rows : Vector Byte 8} {k : Fin 8} (bad : 0x1F < rows[k].toNat)
    (lowest : ∀ j : Fin 8, j < k → rows[j].toNat ≤ 0x1F) : badRow 0 rows.toList = some (k.val, rows[k]) := by
  have cut : rows.toList = rows.toList.take k ++ rows[k] :: rows.toList.drop (k + 1) := by
    have inside : k.val < rows.toList.length := by simp
    conv_lhs => rw [← List.take_append_drop k rows.toList, List.drop_eq_getElem_cons inside, Vector.getElem_toList]
    rfl
  have good : ∀ x ∈ rows.toList.take k, x.toNat ≤ 0x1F := by
    intro x mem
    obtain ⟨j, below, rfl⟩ := List.mem_iff_getElem.mp mem
    rw [List.length_take] at below
    have := lowest ⟨j, by omega⟩ (by rw [Fin.lt_def]; dsimp only; omega)
    simpa using this
  rw [cut, badRow_append 0 _ good bad]
  simp

/-- Settles O30, check by check. -/
theorem failedChecksChangeNothing : Obligations.FailedChecksChangeNothing := by
  intro s rs
  refine ⟨fun p asked out => ?_, fun p b asked out => ?_, fun index rows asked out => ?_,
    fun index rows k asked inRange bad lowest => ?_, fun text d asked cgram => ?_,
    fun before ch after m f c asked printable bad => ?_, fun before ch after m f asked printable bad => ?_,
    fun text m f c asked printable cgram => ?_, fun text m f asked printable cgram => ?_,
    fun text m f asked printable ddram => ?_, fun t st v d asked out => ?_, fun asked tr width => ?_,
    fun asked tr width => ?_⟩ <;>
    refine step_of_asked_error asked ?_
  · simp [startOp, startReadByteFromPos, State.taking, out]
  · simp [startOp, startWriteByteToPos, State.taking, out]
  · exact if_pos (by omega)
  · simp only [startOp, startWriteGraphToCgram, inRange, not_true_eq_false, if_false, badRow_of_lowest bad lowest]
  · rw [startOp, startTypewriter, requireDdram_of_cgram (S := (s.taking rs).S) cgram]
  · simp only [startOp, startSplitFlapSequential, splitFlapError_of_unprintable _ printable bad]
  · simp only [startOp, startSplitFlapSimultaneous, splitFlapError_of_unprintable _ printable bad]
  · simp [startOp, startSplitFlapSequential, splitFlapError_of_printable _ printable, State.taking, cgram]
  · simp [startOp, startSplitFlapSimultaneous, splitFlapError_of_printable _ printable, State.taking, cgram]
  · simp [startOp, startSplitFlapSequential, splitFlapError_of_printable _ printable, State.taking, ddram]
  · exact if_pos (Nat.not_lt.mpr out)
  · simp [startOp, startInit, initWidthError, State.taking, tr, width]
  · have error : initWidthError (s.taking rs) = some .widthTransportMismatch := by
      simp only [initWidthError, State.taking]
      cases hw : s.S.dataWidth <;> cases htr : s.params.transport <;> simp_all
    simp only [startOp, startInit, error]

/-! ## The backlight (R119, R120) -/

theorem backlightNow_of_bridge {s : State} (tr : s.params.transport = .i2cBridge) : backlightNow s = s.X.backlight := by
  rw [backlightNow, tr]

theorem backlightNow_of_parallel {s : State} (tr : s.params.transport ≠ .i2cBridge) :
    backlightNow s = if s.params.hasBacklight = true ∧ s.X.level.bl = .driven .high then .on else .off := by
  rw [backlightNow]
  cases htr : s.params.transport
  · rfl
  · rfl
  · exact absurd htr tr

/-- `set_backlight` on a parallel transport: the shadow, and the line where there is one (R120). -/
theorem startSetBacklight_of_parallel {s : State} (tr : s.params.transport ≠ .i2cBridge) (v : Switch) :
    startSetBacklight v s
      = .ok (s.assign { s.S with backlight := v },
          if s.params.hasBacklight then [event (.pinSet .bl (backlightLevel v))] else []) := by
  simp only [startSetBacklight]
  cases htr : s.params.transport
  · rfl
  · rfl
  · exact absurd htr tr

/-- `set_backlight` on the bridge: the shadow, the stored value and one latch byte with enable low (R120). -/
theorem startSetBacklight_of_bridge {s : State} (tr : s.params.transport = .i2cBridge) (v : Switch) :
    startSetBacklight v s
      = .ok ({ s with S := { s.S with backlight := v }, X := { s.X with backlight := v } },
          [event (.i2cWrite s.X.addr [latchByte s.params.latch 0#1 0#1 0#1 (blBit v) 0#4])]) := by
  simp only [startSetBacklight, tr]
  cases v <;> rfl

/-- Settles O32, transport by transport. -/
theorem backlightFollowsItsRules : Obligations.BacklightFollowsItsRules := by
  intro s rs v
  constructor
  · intro asked
    have value : step s = .next (returned s rs (.switch (backlightNow s))) := step_of_asked_returnNow asked rfl
    refine ⟨fun tr => ?_, fun tr line high => ?_, fun tr line low => ?_, fun tr none => ?_⟩
    · rw [value, backlightNow_of_bridge tr]
    · rw [value, backlightNow_of_parallel tr, if_pos ⟨line, high⟩]
    · rw [value, backlightNow_of_parallel tr, if_neg (fun h => low h.2)]
    · rw [value, backlightNow_of_parallel tr, if_neg (by simp [none])]
  · intro asked
    refine ⟨fun tr => ?_, fun tr line => ?_, fun tr noLine => ?_⟩
    · have ⟨running, _, _⟩ := asked
      rw [step_of_asked asked, State.begin, startOp, startSetBacklight_of_bridge (s := s.taking rs) tr]
      simp only [State.push, State.taking, Seq.start, Seq.push, State.settle, running, begun, event, List.append_nil]
      rfl
    · refine step_of_asked_begun asked ?_
      rw [startOp, startSetBacklight_of_parallel (s := s.taking rs) tr, if_pos (show (s.taking rs).params.hasBacklight = true from line)]
      cases v <;> rfl
    · refine step_of_asked_done asked ?_
      rw [startOp, startSetBacklight_of_parallel (s := s.taking rs) tr, if_neg]
      · rfl
      · exact (by rw [noLine]; exact Bool.false_ne_true : ¬ s.params.hasBacklight = true)

/-! ## Construction (R34, R220) -/

theorem constructionError_of_fits {p : Params}
    (fits : p.transport = .i2cBridge ∨ (p.transport = .parallelFourBit ∧ p.pinCnt = 4)
      ∨ (p.transport = .parallelEightBit ∧ p.pinCnt = 8)) :
    constructionError p
      = if fontLineOk p.config.lineMode p.config.font then none else some .invalidFontLine := by
  obtain tr | ⟨tr, pins⟩ | ⟨tr, pins⟩ := fits <;> simp [constructionError, dataLines, *]

/-- Settles O34, check by check. -/
theorem constructionFollowsItsRules : Obligations.ConstructionFollowsItsRules := by
  intro p
  refine ⟨?_, ?_, fun tr four eight => ?_, fun fits => ⟨fun bad => ?_, fun ok => ?_⟩, rfl, rfl, rfl, rfl, rfl, rfl, rfl⟩
  · rw [State.construct]
    split <;> rfl
  · rw [State.construct]
    split <;> rfl
  · have error : constructionError p = some (.unsupportedPinCount p.pinCnt) := by
      cases htr : p.transport <;> simp_all [constructionError, dataLines]
    rw [State.construct, error]
    rfl
  · have font : ¬ fontLineOk p.config.lineMode p.config.font = true := fun ok => fontLineOk_iff.mp ok bad
    rw [State.construct, constructionError_of_fits fits, if_neg font]
    rfl
  · rw [State.construct, constructionError_of_fits fits, if_pos (fontLineOk_iff.mpr ok)]

end Sys2Proof.Machine
end

section
/-! What one step can do: one inversion lemma for the step and one for the action it takes. -/
namespace Sys2Proof.Machine
open Sys2Proof.Claim

/-! ## Actions -/

/-- An action that is no part of a `send`: not a wire element, unless an event that leaves the enable line alone. -/
def isQuiet : Micro → Bool
  | .wire (.call (.pinSet .en _)) => false
  | .wire (.call _) => true
  | .wire .sentFirst => false
  | .wire (.ret _ _) => false
  | _ => true

theorem eventsOnly_of_quiet {ms : List Micro} (quiet : ms.all isQuiet = true) : eventsOnly ms = true := by
  induction ms using eventsOnly.induct <;> simp_all [eventsOnly, isQuiet]

theorem forceDirection_quiet (saved d : Direction) : (forceDirection saved d).all isQuiet = true := by
  cases saved <;> rfl

/-- The actions an operation begins with are no part of a `send`. -/
theorem startOp_quiet {o : Op} {s t : State} {ms : List Micro} (h : startOp o s = .ok (t, ms)) :
    ms.all isQuiet = true := by
  cases o <;>
    simp only [startOp, startEncode, startSend, startDelayThenSend, startWaitUntilIdleThenSend, startIsBusy,
      startGetBacklight, startSetBacklight, startGet, startCalculatePosByOffset, startSetCursorPos, startSetCgramAddr,
      startShiftCursorOrDisplay, startSetLineMode, startSetFont, startSetDisplayOn, startSetCursorOn,
      startSetCursorBlink, startSetDirection, startSetShiftType, startInit, startClearDisplay, startReturnHome,
      startWriteU8ToCur, startReadU8FromCur, startWriteCharToCur, startWriteGraphToCgram, startReadByteFromPos,
      startWriteByteToPos, startTypewriter, startSplitFlapSequential, startSplitFlapSimultaneous,
      startShiftDisplayToPos, startFullDisplayBlink, assignThenSend, returnNow] at h
  all_goals
    repeat' split at h
    all_goals cases h
    all_goals
      simp [isQuiet, event, initFourBit, initEightBit, initTail, hidingCursor, scanStep, forceDirection_quiet]

/-- A change that emits no event: of the shadow, `X.backlight`, the result or the named step. -/
def Silent (s t : State) : Prop :=
  t.S.dataWidth = s.S.dataWidth ∧ (t.seq = s.seq ∨ ∃ st, t.seq = s.seq.enter st)
    ∧ t = { s with S := t.S, X := { s.X with backlight := t.X.backlight }, result := t.result, seq := t.seq }

theorem silent_of_startOp {o : Op} {s t : State} {ms : List Micro} (h : startOp o s = .ok (t, ms)) : Silent s t := by
  obtain ⟨_, width, _, _, _, frame⟩ := startOp_frame h
  exact ⟨width, .inl (by rw [frame]), by rw [frame]⟩

theorem silent_self (s : State) : Silent s s := ⟨rfl, .inl rfl, rfl⟩

/-- Beginning an operation: its fatal error, or a silent change and actions that are no part of a `send`. -/
theorem begin_silent (s : State) (o : Op) :
    (∃ e, s.begin o = s.raise e) ∨ ∃ t ms, s.begin o = t.push ms ∧ Silent s t ∧ ms.all isQuiet = true := by
  obtain ⟨e, _, raises⟩ | ⟨t, ms, starts, begins⟩ := begin_cases s o
  · exact .inl ⟨e, raises⟩
  · exact .inr ⟨t, ms, begins, silent_of_startOp starts, startOp_quiet starts⟩

/-- A block that pushes nothing stays as it is. -/
theorem push_nil (s : State) : s.push [] = s := by
  obtain ⟨p, S, pi, X, f, q, rx, se, re, rq, e, tr, d⟩ := s
  cases q <;> rfl

theorem flipActions_quiet (cell : Pos) (target : Nat) (m : Option Nat) (perFlip : Nat) :
    (flipActions cell target m perFlip).all isQuiet = true := by
  rw [flipActions, List.all_flatMap, List.all_eq_true]
  intro b _
  split <;> rfl

theorem blinkActions_quiet (left : Option Nat) (interval : Nat) : (blinkActions left interval).all isQuiet = true := by
  rcases left with _ | _ | n <;> rfl

theorem pollActions_quiet (s : State) (c : Command) : (pollActions s c).all isQuiet = true := by
  rw [pollActions]
  split <;> rfl

/-- What an action can do: it is a wire element; or it halts the block with nothing else changed; or it is a `send` that
expands into its wire sequence; or it is silent and expands into actions that are no part of a `send`. -/
theorem micro_cases (s : State) (m : Micro) :
    (∃ w, m = .wire w)
      ∨ (∃ e, s.micro m = s.raise e)
      ∨ (∃ c ws, m = .send c ∧ wiresOf s c = .ok ws ∧ s.micro m = ({ s with rx := [] } : State).push (ws.map .wire))
      ∨ ∃ t ms, s.micro m = t.push ms ∧ Silent s t ∧ ms.all isQuiet = true := by
  have expands (ms : List Micro) (quiet : ms.all isQuiet = true) (pushes : s.micro m = s.push ms) :
      ∃ t ms, s.micro m = t.push ms ∧ Silent s t ∧ ms.all isQuiet = true :=
    ⟨s, ms, pushes, silent_self s, quiet⟩
  have changes (t : State) (becomes : s.micro m = t) (silent : Silent s t) :
      ∃ t ms, s.micro m = t.push ms ∧ Silent s t ∧ ms.all isQuiet = true :=
    ⟨t, [], by rw [becomes, push_nil], silent, rfl⟩
  cases m with
  | wire w => exact .inl ⟨w, rfl⟩
  | send c =>
    cases accepted : wiresOf s c with
    | error e => exact .inr (.inl ⟨e, by simp only [State.micro, accepted]⟩)
    | ok ws => exact .inr (.inr (.inl ⟨c, ws, rfl, accepted, by simp only [State.micro, accepted]⟩))
  | waitIdle c => exact .inr (.inr (.inr (expands _ rfl rfl)))
  | pollTest c => exact .inr (.inr (.inr (expands _ (pollActions_quiet s c) rfl)))
  | call o => exact .inr ((begin_silent s o).imp_right .inr)
  | stage st => exact .inr (.inr (.inr (changes _ rfl ⟨rfl, .inr ⟨st, rfl⟩, rfl⟩)))
  | home => exact .inr (.inr (.inr (changes _ rfl ⟨rfl, .inl rfl, rfl⟩)))
  | stepCursor => exact .inr (.inr (.inr (changes _ rfl ⟨rfl, .inl rfl, rfl⟩)))
  | pushBacklight => exact .inr ((begin_silent s (.setBacklight s.S.backlight)).imp_right .inr)
  | flips target m perFlip => exact .inr (.inr (.inr (expands _ (flipActions_quiet _ _ _ _) rfl)))
  | toggle => exact .inr ((begin_silent s (.setDisplayOn (toggled s.S.displayOn))).imp_right .inr)
  | blink left interval => exact .inr (.inr (.inr (expands _ (blinkActions_quiet left interval) rfl)))
  | returnSent => exact .inr (.inr (.inr (changes _ rfl ⟨rfl, .inl rfl, rfl⟩)))
  | returnBusy => exact .inr (.inr (.inr (changes _ rfl ⟨rfl, .inl rfl, rfl⟩)))

/-! ## Steps -/

theorem idle_or_running (q : Seq) : q = .idle ∨ ∃ n st rest, q = .running n st rest := by
  cases q with
  | idle => exact .inl rfl
  | running n st rest => exact .inr ⟨n, st, rest, rfl⟩

/-- What a step can do: nothing, for want of a request; a delivery; the beginning of an operation; the end of an operation;
one action. -/
theorem step_next_cases {s t : State} (next : step s = .next t) :
    s.fatal = none ∧
      ((s.seq = .idle ∧ t = s)
        ∨ (∃ rs c, s.seq = .idle ∧ deliver c { s with requests := rs } = .next t)
        ∨ (∃ rs o, s.seq = .idle ∧ s.requests = .op o :: rs ∧ t = ((s.taking rs).begin o).settle)
        ∨ (∃ n st, s.seq = .running n st [] ∧ t = { s with seq := .idle })
        ∨ ∃ n st m ms, s.seq = .running n st (m :: ms)
            ∧ t = (({ s with seq := .running n st ms } : State).micro m).settle) := by
  have running : s.fatal = none := by
    cases halted : s.fatal with
    | none => rfl
    | some e => rw [step_halted halted] at next; cases next
  refine ⟨running, ?_⟩
  obtain hq | ⟨n, st, rest, hq⟩ := idle_or_running s.seq
  · cases hr : s.requests with
    | nil => rw [step_idle_nil running hq hr] at next; cases next; exact .inl ⟨hq, rfl⟩
    | cons r rs =>
      rw [step_idle_cons running hq hr] at next
      cases r with
      | op o => cases next; exact .inr (.inr (.inl ⟨rs, o, hq, rfl, rfl⟩))
      | word w =>
        refine .inr (.inl ⟨rs, ?_⟩)
        simp only [State.take] at next
        split at next
        · rw [exec_eq_deliver] at next
          exact ⟨_, hq, next⟩
        · exact ⟨_, hq, next⟩
  · cases rest with
    | nil =>
      simp only [step, running, hq] at next
      cases next
      exact .inr (.inr (.inr (.inl ⟨n, st, hq, by rw [running]⟩)))
    | cons m ms =>
      rw [step_running running hq] at next
      cases next
      exact .inr (.inr (.inr (.inr ⟨n, st, m, ms, hq, rfl⟩)))

/-- Where the sequencer is after a settled action: idle, or where the action left it. -/
theorem settle_seq (s : State) :
    s.settle.seq = s.seq ∨ (s.settle.seq = .idle ∧ ∃ n st, s.seq = .running n st []) := by
  unfold State.settle
  split
  · next n st _ hq => exact .inr ⟨rfl, n, st, hq⟩
  · exact .inl rfl

/-! ## What only grows (R4, R11, R23, R26) -/

/-- What no step undoes: of two states one of which comes later. -/
def Later (s t : State) : Prop :=
  t.params = s.params ∧ t.pollInterval = s.pollInterval ∧ t.S.dataWidth = s.S.dataWidth ∧ t.X.addr = s.X.addr
    ∧ (s.X.firstCommandSent = true → t.X.firstCommandSent = true)
    ∧ (∃ es, t.trace = s.trace ++ es) ∧ ∃ cs, t.delivered = s.delivered ++ cs

theorem later_refl (s : State) : Later s s :=
  ⟨rfl, rfl, rfl, rfl, id, ⟨[], (List.append_nil _).symm⟩, [], (List.append_nil _).symm⟩

theorem later_trans {s t u : State} (first : Later s t) (second : Later t u) : Later s u := by
  obtain ⟨params, poll, width, addr, sent, ⟨es, trace⟩, cs, delivered⟩ := first
  obtain ⟨params', poll', width', addr', sent', ⟨es', trace'⟩, cs', delivered'⟩ := second
  exact ⟨params'.trans params, poll'.trans poll, width'.trans width, addr'.trans addr, sent' ∘ sent,
    ⟨es ++ es', by rw [trace', trace, List.append_assoc]⟩, cs ++ cs', by rw [delivered', delivered, List.append_assoc]⟩

theorem later_of_silent {s t : State} (silent : Silent s t) : Later s t := by
  obtain ⟨width, _, frame⟩ := silent
  rw [frame]
  exact ⟨rfl, rfl, width, rfl, id, ⟨[], (List.append_nil _).symm⟩, ⟨[], (List.append_nil _).symm⟩⟩

theorem later_afterCalls (s : State) (cs : List Call) : Later s (s.afterCalls cs) :=
  ⟨rfl, rfl, rfl, rfl, id, ⟨_, rfl⟩, ⟨[], (List.append_nil _).symm⟩⟩

theorem later_wire (s : State) (w : Wire) : Later s (s.wire w) := by
  cases w with
  | call c =>
    obtain ⟨_, failed⟩ | ⟨_, done⟩ := perform_cases s c
    · rw [State.wire, failed]
      exact later_refl s
    · rw [State.wire, done, complete_eq_afterCalls]
      exact later_afterCalls s [c]
  | sentFirst => exact ⟨rfl, rfl, rfl, rfl, fun _ => rfl, ⟨[], (List.append_nil _).symm⟩, [], (List.append_nil _).symm⟩
  | ret c r => exact ⟨rfl, rfl, rfl, rfl, id, ⟨[], (List.append_nil _).symm⟩, [c], rfl⟩

theorem later_runWires (ws : List Wire) (s : State) : Later s (State.runWires ws s) := by
  induction ws generalizing s with
  | nil => exact later_refl s
  | cons w ws ih =>
    rw [State.runWires]
    split
    · exact later_wire s w
    · exact later_trans (later_wire s w) (ih _)

theorem later_sendNow (s : State) (c : Command) : Later s (s.sendNow c) := by
  obtain ⟨e, _, raises⟩ | ⟨ws, _, sends⟩ := sendNow_cases s c
  · rw [raises]
    exact later_refl s
  · rw [sends]
    exact later_runWires ws { s with rx := [] }

/-- A delivery, by how its whole `send` ends. -/
theorem deliver_next_cases {c : Except FatalError Command} {s t : State} (next : deliver c s = .next t) :
    s.fatal = none ∧
      ((∃ e, c = .error e ∧ t = s.opening.raise e)
        ∨ (∃ d, c = .ok d ∧ t.fatal ≠ none ∧ t = s.opening.sendNow d)
        ∨ ∃ d, c = .ok d ∧ (s.opening.sendNow d).fatal = none
            ∧ t = { s.opening.sendNow d with seq := s.seq, result := resultOfSent (s.opening.sendNow d).sent }) := by
  cases running : s.fatal with
  | some e => rw [deliver_halted c running] at next; cases next
  | none =>
    refine ⟨rfl, ?_⟩
    cases c with
    | error e => rw [deliver_of_error running] at next; cases next; exact .inl ⟨e, rfl, rfl⟩
    | ok d =>
      cases ends : (s.opening.sendNow d).fatal with
      | none =>
        rw [deliver_of_completes running ends] at next
        cases next
        exact .inr (.inr ⟨d, rfl, ends, rfl⟩)
      | some e =>
        rw [deliver_of_halts running ends] at next
        cases next
        exact .inr (.inl ⟨d, rfl, by rw [ends]; exact Option.some_ne_none e, rfl⟩)

theorem later_deliver {c : Except FatalError Command} {s t : State} (next : deliver c s = .next t) : Later s t := by
  obtain ⟨_, ⟨e, _, rfl⟩ | ⟨d, _, _, rfl⟩ | ⟨d, _, _, rfl⟩⟩ := deliver_next_cases next
  · exact later_refl s
  · exact later_sendNow s.opening d
  · exact later_sendNow s.opening d

theorem later_micro (s : State) (m : Micro) : Later s (s.micro m) := by
  obtain ⟨w, rfl⟩ | ⟨e, raises⟩ | ⟨c, ws, _, _, sends⟩ | ⟨t, ms, expands, silent, _⟩ := micro_cases s m
  · exact later_wire s w
  · rw [raises]
    exact later_refl s
  · rw [sends]
    exact later_refl s
  · rw [expands]
    exact show Later s t from later_of_silent silent

theorem later_begin (s : State) (o : Op) : Later s (s.begin o) := by
  obtain ⟨e, raises⟩ | ⟨t, ms, begins, silent, _⟩ := begin_silent s o
  · rw [raises]
    exact later_refl s
  · rw [begins]
    exact show Later s t from later_of_silent silent

theorem later_settle (s : State) : Later s s.settle :=
  ⟨settle_params s, settle_pollInterval s, by rw [settle_S], by rw [settle_X], fun h => by rwa [settle_X],
    ⟨[], by rw [settle_trace, List.append_nil]⟩, ⟨[], by rw [settle_delivered, List.append_nil]⟩⟩

theorem later_step {s t : State} (next : step s = .next t) : Later s t := by
  obtain ⟨_, ⟨_, rfl⟩ | ⟨rs, c, _, delivers⟩ | ⟨rs, o, _, _, rfl⟩ | ⟨n, st, _, rfl⟩ | ⟨n, st, m, ms, _, rfl⟩⟩ :=
    step_next_cases next
  · exact later_refl _
  · exact later_deliver (s := { s with requests := rs }) delivers
  · exact later_trans (later_begin (s.taking rs) o) (later_settle _)
  · exact later_refl s
  · exact later_trans (later_micro { s with seq := .running n st ms } m) (later_settle _)

/-- Settles O38: a step leads to a later state. -/
theorem everyStepKeepsWhatIsFixed : Obligations.EveryStepKeepsWhatIsFixed := by
  intro s t next
  obtain ⟨running, _⟩ := step_next_cases next
  exact ⟨running, later_step next⟩

/-! ## One event a step (R29) -/

/-- A wire element emits one event, which the sequencer counts, or none. -/
theorem wire_trace_seq (s : State) (w : Wire) :
    ((s.wire w).trace = s.trace ∧ (s.wire w).seq = s.seq)
      ∨ ∃ e, (s.wire w).trace = s.trace ++ [e] ∧ (s.wire w).seq = s.seq.afterEvent := by
  cases w with
  | call c =>
    obtain ⟨_, failed⟩ | ⟨_, done⟩ := perform_cases s c
    · exact .inl (by rw [State.wire, failed]; exact ⟨rfl, rfl⟩)
    · refine .inr ⟨{ call := c, answer := s.env.answer c }, ?_⟩
      rw [State.wire, done, complete_seq, complete_eq_afterCalls]
      exact ⟨rfl, rfl⟩
  | sentFirst => exact .inl ⟨rfl, rfl⟩
  | ret c r => exact .inl ⟨rfl, rfl⟩

/-- Where the sequencer of a running block is after an action: one event further in the same named step, or with no event
emitted. The actions left after the one taken stay last. -/
theorem micro_trace_seq {s : State} {n : Nat} {st : Option InitStage} {rest : List Micro} (m : Micro)
    (hq : s.seq = .running n st rest) :
    ((s.micro m).trace = s.trace ∧ ∃ st' ms, (s.micro m).seq = .running n st' (ms ++ rest))
      ∨ ((∃ e, (s.micro m).trace = s.trace ++ [e]) ∧ (s.micro m).seq = .running (n + 1) st rest) := by
  obtain ⟨w, rfl⟩ | ⟨e, raises⟩ | ⟨c, ws, _, _, sends⟩ | ⟨t, ms, expands, ⟨_, seq, frame⟩, _⟩ := micro_cases s m
  · obtain ⟨trace, seq⟩ | ⟨e, trace, seq⟩ := wire_trace_seq s w
    · exact .inl ⟨trace, st, [], seq.trans hq⟩
    · exact .inr ⟨⟨e, trace⟩, by rw [show (s.micro (.wire w)).seq = _ from seq, hq]; rfl⟩
  · rw [raises]
    exact .inl ⟨rfl, st, [], hq⟩
  · rw [sends]
    exact .inl ⟨rfl, st, ws.map .wire, by rw [push_seq, hq]; rfl⟩
  · rw [expands]
    refine .inl ⟨by rw [push_trace, frame], ?_⟩
    obtain seq | ⟨st', seq⟩ := seq
    · exact ⟨st, ms, by rw [push_seq, seq, hq]; rfl⟩
    · exact ⟨some st', ms, by rw [push_seq, seq, hq]; rfl⟩

/-- Settles O39: an action emits at most one event, and settling emits none. -/
theorem eachStepOfAnOperationIsAtMostOneEvent : Obligations.EachStepOfAnOperationIsAtMostOneEvent := by
  intro s t n st rest hq next
  obtain ⟨_, ⟨idle, _⟩ | ⟨_, _, idle, _⟩ | ⟨_, _, idle, _⟩ | ⟨n', st', hq', rfl⟩ | ⟨n', st', m, ms, hq', rfl⟩⟩ :=
    step_next_cases next
  · rw [hq] at idle; cases idle
  · rw [hq] at idle; cases idle
  · rw [hq] at idle; cases idle
  · exact .inl ⟨rfl, .inl rfl⟩
  · cases hq.symm.trans hq'
    rw [settle_trace]
    have settled := settle_seq (({ s with seq := .running n st ms } : State).micro m)
    obtain ⟨trace, st', ms', seq⟩ | ⟨trace, seq⟩ := micro_trace_seq (s := { s with seq := .running n st ms }) m rfl
    · refine .inl ⟨trace, ?_⟩
      obtain kept | ⟨idle, _⟩ := settled
      · exact .inr ⟨st', ms' ++ ms, kept.trans seq⟩
      · exact .inl idle
    · refine .inr ⟨trace, ?_⟩
      obtain kept | ⟨idle, _⟩ := settled
      · exact .inr ⟨ms, kept.trans seq⟩
      · exact .inl idle

/-! ## The endless blink (R183, R217) -/

/-- The actions of a running block, those left after the one taken among them, end as they did. -/
theorem micro_keeps_tail {s : State} {n : Nat} {st : Option InitStage} {rest : List Micro} (m : Micro)
    (hq : s.seq = .running n st rest) : ∃ n' st' ms, (s.micro m).seq = .running n' st' (ms ++ rest) := by
  obtain ⟨_, st', ms, seq⟩ | ⟨_, seq⟩ := micro_trace_seq m hq
  · exact ⟨n, st', ms, seq⟩
  · exact ⟨n + 1, st, [], seq⟩

/-- A block with actions left does not become idle when it settles. -/
theorem settle_of_actions_left {s : State} {n : Nat} {st : Option InitStage} {before : List Micro} {m : Micro}
    (hq : s.seq = .running n st (before ++ [m])) : s.settle = s := by
  unfold State.settle
  split
  · next hq' => rw [hq] at hq'; simp at hq'
  · rfl

theorem blinks_of_seq {s : State} {n : Nat} {st : Option InitStage} {before : List Micro} {interval : Nat}
    (hq : s.seq = .running n st (before ++ [.blink none interval])) : s.settle.Blinks interval := by
  rw [settle_of_actions_left hq]
  exact fun _ => ⟨n, st, before, hq⟩

/-- A step of an endless blink leaves the block in it: the blink itself expands into one toggle before itself. -/
theorem blinks_step {s t : State} {interval : Nat} (next : step s = .next t) (blinks : s.Blinks interval) :
    t.Blinks interval := by
  obtain ⟨running, cases⟩ := step_next_cases next
  obtain ⟨n, st, before, hq⟩ := blinks running
  obtain ⟨idle, _⟩ | ⟨_, _, idle, _⟩ | ⟨_, _, idle, _⟩ | ⟨n', st', hq', _⟩ | ⟨n', st', m, ms, hq', rfl⟩ := cases
  · rw [hq] at idle; cases idle
  · rw [hq] at idle; cases idle
  · rw [hq] at idle; cases idle
  · rw [hq] at hq'; simp at hq'
  · rw [hq] at hq'
    cases before with
    | nil =>
      cases hq'
      exact blinks_of_seq (n := n) (st := st) (before := [event (.delayUs interval), .toggle]) rfl
    | cons m' before =>
      cases hq'
      obtain ⟨n', st', ms', seq⟩ :=
        micro_keeps_tail (s := { s with seq := .running n st (before ++ [.blink none interval]) }) m rfl
      exact blinks_of_seq (before := ms' ++ before) (by rw [List.append_assoc]; exact seq)

/-- Settles O55. -/
theorem everyStepKeepsAnEndlessBlinkGoing : Obligations.EveryStepKeepsAnEndlessBlinkGoing := by
  intro s t interval next
  refine ⟨fun blinks => ?_, fun rs asked => ?_⟩
  · have blinks' := blinks_step next blinks
    refine ⟨blinks', fun running idle => ?_⟩
    obtain ⟨n, st, before, hq⟩ := blinks' running
    rw [hq] at idle
    cases idle
  · have begins : step s = .next (begun s rs s.S [.blink none interval]) := step_of_asked_begun asked rfl
    cases begins.symm.trans next
    exact ⟨fun _ => ⟨0, none, [], rfl⟩, asked.1⟩

end Sys2Proof.Machine
end

section
/-! The shadow in bounds (R13, R131): every operation's assignments keep it, so every step does. -/
namespace Sys2Proof.Machine
open Sys2Proof.Claim

/-- The invariants of the shadow (`State.ShadowOk`), of a shadow by itself. -/
def ShadowWithin (S : DisplayState) : Prop := fontLineOk S.lineMode S.font = true ∧ positionsWithin S.lineMode S = true

theorem positionsWithin_iff {m : LineMode} {S : DisplayState} :
    positionsWithin m S = true ↔ inBounds m S.cursorPos = true ∧ S.displayOffset < lineCapacity m := by
  simp [positionsWithin]

theorem shadowWithin_homed {S : DisplayState} (within : ShadowWithin S) : ShadowWithin S.homed := by
  obtain ⟨font, -⟩ := within
  refine ⟨font, positionsWithin_iff.mpr ⟨?_, lineCapacity_pos S.lineMode⟩⟩
  show inBounds S.lineMode { col := 0, row := 0 } = true
  cases S.lineMode <;> rfl

theorem shadowWithin_cursor {S : DisplayState} {p : Pos} (within : ShadowWithin S) (valid : inBounds S.lineMode p = true)
    (ram : RamType) : ShadowWithin { S with cursorPos := p, ramType := ram } := by
  obtain ⟨font, positions⟩ := within
  exact ⟨font, positionsWithin_iff.mpr ⟨valid, (positionsWithin_iff.mp positions).2⟩⟩

theorem shadowWithin_stepCursor {S : DisplayState} (within : ShadowWithin S) (d : Direction) :
    ShadowWithin { S with cursorPos := stepPos S.lineMode S.cursorPos d } :=
  shadowWithin_cursor within (inBounds_stepPos (positionsWithin_iff.mp within.2).1 d) S.ramType

theorem shiftOffset_lt (st : OffsetStep) (m : LineMode) (o : Nat) (d : Direction) :
    shiftOffset st m o d < lineCapacity m := by
  have capacity := lineCapacity_pos m
  have below := Int.emod_lt_of_pos ((o : Int) + sigma st d) (show (0 : Int) < lineCapacity m by omega)
  rw [← shiftOffset_cast] at below
  exact_mod_cast below

theorem shadowWithin_shiftOffset {S : DisplayState} (within : ShadowWithin S) (st : OffsetStep) (d : Direction) :
    ShadowWithin { S with displayOffset := shiftOffset st S.lineMode S.displayOffset d } := by
  obtain ⟨font, positions⟩ := within
  exact ⟨font, positionsWithin_iff.mpr ⟨(positionsWithin_iff.mp positions).1, shiftOffset_lt st S.lineMode _ d⟩⟩

/-- The start of an operation keeps the shadow in bounds: `set_line_mode` and `set_font` check what they assign, the
addressing operations assign what is in bounds, and the others leave these fields alone. -/
theorem shadowWithin_startOp {o : Op} {s t : State} {ms : List Micro} (h : startOp o s = .ok (t, ms))
    (within : ShadowWithin s.S) : ShadowWithin t.S := by
  cases o with
  | setCursorPos pos =>
    cases valid : inBounds s.S.lineMode pos with
    | false => cases (startSetCursorPos_of_not_inBounds valid).symm.trans h
    | true =>
      cases (startSetCursorPos_of_inBounds valid).symm.trans h
      exact shadowWithin_cursor within valid .ddram
  | shiftCursorOrDisplay shift dir =>
    cases shift with
    | cursorOnly =>
      cases (startShift_cursorOnly dir s).symm.trans h
      exact shadowWithin_stepCursor within dir
    | cursorAndDisplay =>
      cases (startShift_cursorAndDisplay dir s).symm.trans h
      exact shadowWithin_shiftOffset within _ dir
  | setLineMode m =>
    simp only [startOp, startSetLineMode] at h
    split at h
    · cases h
    · next font =>
      split at h
      · cases h
      · next positions =>
        cases h
        exact ⟨not_not.mp font, not_not.mp positions⟩
  | setFont f =>
    simp only [startOp, startSetFont] at h
    split at h
    · cases h
    · next font =>
      cases h
      exact ⟨not_not.mp font, within.2⟩
  | init =>
    simp only [startOp, startInit] at h
    split at h
    · cases h
    · split at h <;> cases h <;> exact within
  | clearDisplay => cases h; exact show ShadowWithin s.S.homed from shadowWithin_homed within
  | returnHome => cases h; exact shadowWithin_homed within
  | _ =>
    simp only [startOp, startEncode, startSend, startDelayThenSend, startWaitUntilIdleThenSend, startIsBusy,
      startGetBacklight, startSetBacklight, startGet, startCalculatePosByOffset, startSetCgramAddr,
      startSetDisplayOn, startSetCursorOn, startSetCursorBlink, startSetDirection, startSetShiftType,
      startWriteU8ToCur, startReadU8FromCur, startWriteCharToCur, startWriteGraphToCgram, startReadByteFromPos,
      startWriteByteToPos, startTypewriter, startSplitFlapSequential, startSplitFlapSimultaneous,
      startShiftDisplayToPos, startFullDisplayBlink, assignThenSend, returnNow] at h
    repeat' split at h
    all_goals cases h
    all_goals exact within

theorem shadowWithin_begin {s : State} (o : Op) (within : ShadowWithin s.S) : ShadowWithin (s.begin o).S := by
  obtain ⟨e, _, raises⟩ | ⟨t, ms, starts, begins⟩ := begin_cases s o
  · rw [raises]
    exact within
  · rw [begins]
    exact show ShadowWithin t.S from shadowWithin_startOp starts within

theorem shadowWithin_micro {s : State} (m : Micro) (within : ShadowWithin s.S) : ShadowWithin (s.micro m).S := by
  cases m with
  | wire w => rw [State.micro, wire_S]; exact within
  | send c => simp only [State.micro]; split <;> exact within
  | call o => exact shadowWithin_begin o within
  | home => exact shadowWithin_homed within
  | stepCursor => exact shadowWithin_stepCursor within s.S.direction
  | pushBacklight => exact shadowWithin_begin _ within
  | toggle => exact shadowWithin_begin _ within
  | _ => exact within

/-- Settles O35: a step changes the shadow only in an operation's start or in an action. -/
theorem everyStepKeepsTheShadowInBounds : Obligations.EveryStepKeepsTheShadowInBounds := by
  intro s t ok next _
  obtain ⟨running, cases⟩ := step_next_cases next
  have within : ShadowWithin s.S := ok running
  obtain ⟨_, rfl⟩ | ⟨rs, c, _, delivers⟩ | ⟨rs, o, _, _, rfl⟩ | ⟨n, st, _, rfl⟩ | ⟨n, st, m, ms, _, rfl⟩ := cases
  · exact within
  · obtain ⟨shadow, _⟩ := deliver_shadow delivers
    rw [shadow]
    exact within
  · rw [settle_S]
    exact shadowWithin_begin (s := s.taking rs) o within
  · exact within
  · rw [settle_S]
    exact shadowWithin_micro (s := { s with seq := .running n st ms }) m within

end Sys2Proof.Machine
end

section
/-! The enable line at rest between two sends (R108). -/
namespace Sys2Proof.Machine
open Sys2Proof.Claim

/-- What is left returns to rest from any level that is at rest, if it does from some level. -/
theorem strobesClosed_of_atRest {d d' : Drive} {ms : List Micro} (closed : strobesClosed d ms = true)
    (rest : enableAtRest d' = true) : strobesClosed d' ms = true := by
  induction d, ms using strobesClosed.induct generalizing d' with
  | case1 d => exact rest
  | case2 d v ms ih => exact closed
  | case3 d ms w notEnable ih =>
    rw [strobesClosed] at closed ⊢ <;> first | exact ih closed rest | exact notEnable
  | case4 d m ms notEnable notWire ih =>
    rw [strobesClosed] at closed ⊢
    · rw [Bool.and_eq_true] at closed ⊢
      exact ⟨rest, ih closed.2 rest⟩
    all_goals first | exact notEnable | exact notWire

/-- From rest, actions that are no part of a `send` leave the line alone. -/
theorem strobesClosed_append_of_quiet {d : Drive} {ms rest : List Micro} (quiet : ms.all isQuiet = true)
    (atRest : enableAtRest d = true) : strobesClosed d (ms ++ rest) = strobesClosed d rest := by
  induction ms with
  | nil => rfl
  | cons m ms ih =>
    rw [List.all_cons, Bool.and_eq_true] at quiet
    obtain ⟨first, others⟩ := quiet
    cases m with
    | wire w =>
      cases w with
      | call c =>
        cases c with
        | pinSet l v =>
          cases l with
          | en => cases first
          | _ => exact ih others
        | _ => exact ih others
      | sentFirst => cases first
      | ret c r => cases first
    | _ => simp [strobesClosed, atRest, ih others]

/-- The wires of a `send` take the line where its calls take it. -/
theorem strobesClosed_wires (lines : Levels) (ws : List Wire) (rest : List Micro) :
    strobesClosed lines.en (ws.map .wire ++ rest) = strobesClosed (linesAfter (callsOf ws) lines).en rest := by
  induction ws generalizing lines with
  | nil => rfl
  | cons w ws ih =>
    cases w with
    | call c =>
      cases c with
      | pinSet l v =>
        cases l with
        | en => exact ih (lines.set v .en)
        | rs => exact ih (lines.set v .rs)
        | rw => exact ih (lines.set v .rw)
        | bl => exact ih (lines.set v .bl)
        | dl j => exact ih (lines.set v (.dl j))
      | _ => exact ih lines
    | sentFirst => exact ih lines
    | ret c r => exact ih lines

/-- A whole `send` leaves the line at rest: each of its strobes ends low, and the bridge does not drive it. -/
theorem enableAtRest_linesAfter {s : State} {c : Command} {ws : List Wire} (accepted : wiresOf s c = .ok ws)
    {lines : Levels} (rest : enableAtRest lines.en = true) :
    enableAtRest (linesAfter (callsOf ws) lines).en = true := by
  obtain ⟨_, ⟨_, rfl⟩ | ⟨_, eight⟩ | ⟨_, rfl, _⟩⟩ := wiresOf_ok_cases accepted
  · obtain ⟨rs, rw, _ | n | b⟩ := c <;> rfl
  · obtain ⟨rs, rw, _ | n | b⟩ := c <;> cases eight <;> rfl
  · obtain ⟨rs, rw, _ | n | b⟩ := c <;> exact rest

/-- The enable line at rest in a running block: what is left returns it to rest. -/
theorem enableOk_of_running {s : State} {n : Nat} {st : Option InitStage} {rest : List Micro}
    (hq : s.seq = .running n st rest) (closed : strobesClosed s.X.level.en rest = true) : s.settle.EnableOk := by
  intro _
  rw [settle_X]
  obtain kept | ⟨idle, n', st', finished⟩ := settle_seq s
  · rw [kept, hq]
    exact closed
  · rw [idle]
    cases hq.symm.trans finished
    exact closed

theorem enableOk_settle_of_halted {s : State} {e : FatalError} (halted : s.fatal = some e) : s.settle.EnableOk := by
  intro running
  rw [settle_fatal, halted] at running
  cases running

/-- An action other than a wire element is taken with the line at rest. -/
theorem atRest_of_strobesClosed {d : Drive} {m : Micro} {ms : List Micro} (notWire : ∀ w, m ≠ .wire w)
    (closed : strobesClosed d (m :: ms) = true) : enableAtRest d = true ∧ strobesClosed d ms = true := by
  cases m with
  | wire w => exact absurd rfl (notWire w)
  | _ => rwa [strobesClosed, Bool.and_eq_true] at closed <;> simp

/-- Where a silent change of a running block leaves the sequencer: the actions pushed come first. -/
theorem push_seq_of_silent {s t : State} {n : Nat} {st : Option InitStage} {rest : List Micro} (silent : Silent s t)
    (ms : List Micro) (hq : s.seq = .running n st rest) : ∃ st', (t.push ms).seq = .running n st' (ms ++ rest) := by
  obtain ⟨_, seq | ⟨st', seq⟩, _⟩ := silent
  · exact ⟨st, by rw [push_seq, seq, hq]; rfl⟩
  · exact ⟨some st', by rw [push_seq, seq, hq]; rfl⟩

/-- A silent change with the line at rest, and actions that are no part of a `send`. -/
theorem enableOk_of_silent {s t : State} {n : Nat} {st : Option InitStage} {ms rest : List Micro} (silent : Silent s t)
    (quiet : ms.all isQuiet = true) (hq : s.seq = .running n st rest) (atRest : enableAtRest s.X.level.en = true)
    (closed : strobesClosed s.X.level.en rest = true) : (t.push ms).settle.EnableOk := by
  obtain ⟨st', seq⟩ := push_seq_of_silent silent ms hq
  obtain ⟨_, _, frame⟩ := silent
  refine enableOk_of_running seq ?_
  rw [push_X, frame]
  exact (strobesClosed_append_of_quiet quiet atRest).trans closed

/-- A wire element drives the enable line where `strobesClosed` says. -/
theorem enableOk_wire {s : State} {n : Nat} {st : Option InitStage} {rest : List Micro} (w : Wire)
    (hq : s.seq = .running n st rest) (closed : strobesClosed s.X.level.en (.wire w :: rest) = true) :
    (s.wire w).settle.EnableOk := by
  have after := (strobesClosed_wires s.X.level [w] rest).symm.trans closed
  cases w with
  | call c =>
    obtain ⟨_, failed⟩ | ⟨_, done⟩ := perform_cases s c
    · rw [State.wire, failed]
      exact enableOk_settle_of_halted rfl
    · rw [State.wire, done, complete_eq_afterCalls]
      exact enableOk_of_running (n := n + 1) (st := st) (by rw [State.afterCalls, hq]; rfl) after
  | sentFirst => exact enableOk_of_running (s := s.wire .sentFirst) hq after
  | ret c r => exact enableOk_of_running (s := s.wire (.ret c r)) hq after

/-- An action keeps the line's protocol. -/
theorem enableOk_micro {s : State} {n : Nat} {st : Option InitStage} {rest : List Micro} (m : Micro)
    (hq : s.seq = .running n st rest) (closed : strobesClosed s.X.level.en (m :: rest) = true) :
    (s.micro m).settle.EnableOk := by
  by_cases wire : ∃ w, m = .wire w
  · obtain ⟨w, rfl⟩ := wire
    exact enableOk_wire w hq closed
  have notWire : ∀ w, m ≠ .wire w := fun w eq => wire ⟨w, eq⟩
  obtain ⟨atRest, others⟩ := atRest_of_strobesClosed notWire closed
  obtain ⟨w, rfl⟩ | ⟨e, raises⟩ | ⟨c, ws, _, accepted, sends⟩ | ⟨t, ms, expands, silent, quiet⟩ := micro_cases s m
  · exact absurd rfl (notWire w)
  · rw [raises]
    exact enableOk_settle_of_halted rfl
  · rw [sends]
    refine enableOk_of_running (n := n) (st := st) (rest := ws.map .wire ++ rest) (by rw [push_seq, hq]; rfl) ?_
    rw [push_X, strobesClosed_wires]
    exact strobesClosed_of_atRest others (enableAtRest_linesAfter accepted atRest)
  · rw [expands]
    exact enableOk_of_silent silent quiet hq atRest others

/-- A delivery from an idle block leaves the line at rest, or halts. -/
theorem enableOk_deliver {s t : State} {c : Except FatalError Command} (idle : s.seq = .idle)
    (atRest : enableAtRest s.X.level.en = true) (next : deliver c s = .next t) : t.EnableOk := by
  intro running
  obtain ⟨wasRunning, ⟨e, _, rfl⟩ | ⟨d, _, halted, _⟩ | ⟨d, _, completes, rfl⟩⟩ := deliver_next_cases next
  · cases running
  · exact absurd running halted
  · obtain ⟨e, _, raises⟩ | ⟨ws, k, _, _, _, stops⟩ | ⟨ws, accepted, _, sends⟩ :=
      sendNow_outcome (s := s.opening) wasRunning d
    · rw [raises] at completes; cases completes
    · rw [stops] at completes; cases completes
    · rw [sends]
      simp only [idle]
      exact enableAtRest_linesAfter accepted atRest

/-- Settles O36: an idle block is at rest, and a running one returns to rest before anything but a wire element. -/
theorem everyStepKeepsEnableAtRest : Obligations.EveryStepKeepsEnableAtRest := by
  intro s t ok next
  obtain ⟨running, cases⟩ := step_next_cases next
  have now := ok running
  obtain ⟨_, rfl⟩ | ⟨rs, c, idle, delivers⟩ | ⟨rs, o, idle, _, rfl⟩ | ⟨n, st, hq, rfl⟩ | ⟨n, st, m, ms, hq, rfl⟩ := cases
  · exact ok
  · rw [idle] at now
    exact enableOk_deliver (s := { s with requests := rs }) idle now delivers
  · rw [idle] at now
    obtain ⟨e, raises⟩ | ⟨t, ms, begins, silent, quiet⟩ := begin_silent (s.taking rs) o
    · rw [raises]
      exact enableOk_settle_of_halted rfl
    · rw [begins]
      exact enableOk_of_silent silent quiet rfl now now
  · rw [hq] at now
    exact fun _ => now
  · rw [hq] at now
    exact enableOk_micro (s := { s with seq := .running n st ms }) m rfl now

end Sys2Proof.Machine
end

section
/-! The bridge's protocol (R109, R110). -/
namespace Sys2Proof.Machine
open Sys2Proof.Claim

/-- The protocol's clauses about what has been delivered, in one: nothing before `first_command_sent`, the bootstrap first,
no Function set with `W = 1`. -/
def DeliveredOk (first : Bool) (delivered : List Command) : Prop :=
  (first = false → delivered = []) ∧ (delivered = [] ∨ delivered.head? = some bootstrap)
    ∧ ∀ c ∈ delivered, isEightBitRequest c = false

theorem deliveredOk_of_bridgeOk {s : State} (tr : s.params.transport = .i2cBridge) (ok : s.BridgeOk) :
    DeliveredOk s.X.firstCommandSent s.delivered := by
  obtain ⟨before, head, narrow, _⟩ := ok tr
  exact ⟨before, head, narrow⟩

/-- Idle, the flag says whether something has been delivered (R110). -/
theorem firstCommandSent_of_idle {s : State} (tr : s.params.transport = .i2cBridge) (ok : s.BridgeOk)
    (running : s.fatal = none) (idle : s.seq = .idle) : s.X.firstCommandSent = !s.delivered.isEmpty := by
  obtain ⟨_, _, _, now⟩ := ok tr
  have now := now running
  rw [idle] at now
  exact eq_of_beq now

theorem protocolPending_of_running {s : State} {n : Nat} {st : Option InitStage} {rest : List Micro}
    (tr : s.params.transport = .i2cBridge) (ok : s.BridgeOk) (running : s.fatal = none)
    (hq : s.seq = .running n st rest) :
    protocolPending s.X.firstCommandSent (!s.delivered.isEmpty) rest = true := by
  obtain ⟨_, _, _, now⟩ := ok tr
  have now := now running
  rwa [hq] at now

/-- A Command that passed the bridge's checks is delivered. -/
theorem deliveredOk_append {first : Bool} {delivered : List Command} {c : Command} (ok : DeliveredOk first delivered)
    (narrow : isEightBitRequest c = false) (bootstrapFirst : delivered = [] → c = bootstrap) :
    DeliveredOk true (delivered ++ [c]) := by
  obtain ⟨_, head, all⟩ := ok
  refine ⟨fun h => (by cases h), .inr ?_, ?_⟩
  · cases delivered with
    | nil => rw [bootstrapFirst rfl]; rfl
    | cons d ds => simpa using head
  · intro d mem
    rw [List.mem_append, List.mem_singleton] at mem
    obtain mem | rfl := mem
    · exact all d mem
    · exact narrow

theorem bridgeOk_of_idle {s : State} (idle : s.seq = .idle)
    (ok : s.params.transport = .i2cBridge → DeliveredOk s.X.firstCommandSent s.delivered)
    (agrees : s.params.transport = .i2cBridge → s.X.firstCommandSent = !s.delivered.isEmpty) : s.BridgeOk := by
  intro tr
  obtain ⟨before, head, narrow⟩ := ok tr
  refine ⟨before, head, narrow, fun _ => ?_⟩
  rw [idle]
  exact beq_iff_eq.mpr (agrees tr)

/-- A bridge that settles, by what was in progress. -/
theorem bridgeOk_of_running {s : State} {n : Nat} {st : Option InitStage} {rest : List Micro}
    (hq : s.seq = .running n st rest)
    (ok : s.params.transport = .i2cBridge → DeliveredOk s.X.firstCommandSent s.delivered)
    (pending : s.params.transport = .i2cBridge →
      protocolPending s.X.firstCommandSent (!s.delivered.isEmpty) rest = true) : s.settle.BridgeOk := by
  intro tr
  rw [settle_params] at tr
  obtain ⟨before, head, narrow⟩ := ok tr
  rw [settle_X, settle_delivered]
  refine ⟨before, head, narrow, fun _ => ?_⟩
  obtain kept | ⟨idle, n', st', finished⟩ := settle_seq s
  · rw [kept, hq]
    exact pending tr
  · rw [idle]
    cases hq.symm.trans finished
    exact pending tr

/-- A halted bridge keeps what has been delivered. -/
theorem bridgeOk_of_halted {s : State} (halted : s.fatal ≠ none)
    (ok : s.params.transport = .i2cBridge → DeliveredOk s.X.firstCommandSent s.delivered) : s.BridgeOk := by
  intro tr
  obtain ⟨before, head, narrow⟩ := ok tr
  exact ⟨before, head, narrow, fun running => absurd running halted⟩

/-- The wires of a `send` that passed the checks keep the protocol, whatever follows them that is no part of a `send`. -/
theorem protocolPending_wires {s : State} {c : Command} {ws : List Wire} {first any : Bool} {rest : List Micro}
    (tr : s.params.transport = .i2cBridge) (accepted : wiresOf s c = .ok ws) (sent : s.X.firstCommandSent = first)
    (agrees : first = any) (others : eventsOnly rest = true) :
    protocolPending first any (ws.map .wire ++ rest) = true := by
  obtain ⟨_, ⟨tr', _⟩ | ⟨tr', _⟩ | ⟨_, _, bootstrapped, narrow⟩⟩ := wiresOf_ok_cases accepted
  · rw [tr] at tr'; cases tr'
  · rw [tr] at tr'; cases tr'
  have calls (cs : List Call) (ms : List Micro) :
      protocolPending first any ((cs.map Wire.call).map .wire ++ ms) = protocolPending first any ms := by
    induction cs with
    | nil => rfl
    | cons c cs ih => exact ih
  have firstAllowed : (any || decide (c = bootstrap)) = true := by
    cases first with
    | true => rw [← agrees]; rfl
    | false => simp [bootstrapped sent]
  rw [wiresOf_eq_calls_append_closing accepted, List.map_append, List.append_assoc, calls]
  simp [closing, tr, protocolPending, narrow, firstAllowed, protocolPending_of_eventsOnly others]

theorem settle_bridgeOk_of_halted {s : State} (halted : s.fatal ≠ none)
    (ok : s.params.transport = .i2cBridge → DeliveredOk s.X.firstCommandSent s.delivered) : s.settle.BridgeOk := by
  refine bridgeOk_of_halted (by rwa [settle_fatal]) fun tr => ?_
  rw [settle_params] at tr
  rw [settle_X, settle_delivered]
  exact ok tr

/-- A silent change between two `send`s, and actions that are no part of one. -/
theorem bridgeOk_of_silent {s t : State} {n : Nat} {st : Option InitStage} {ms rest : List Micro} (silent : Silent s t)
    (quiet : ms.all isQuiet = true) (hq : s.seq = .running n st rest)
    (ok : s.params.transport = .i2cBridge → DeliveredOk s.X.firstCommandSent s.delivered)
    (agrees : s.params.transport = .i2cBridge → s.X.firstCommandSent = !s.delivered.isEmpty)
    (others : s.params.transport = .i2cBridge → eventsOnly rest = true) : (t.push ms).settle.BridgeOk := by
  obtain ⟨st', seq⟩ := push_seq_of_silent silent ms hq
  obtain ⟨_, _, frame⟩ := silent
  refine bridgeOk_of_running seq ?_ fun tr => ?_
  · rw [push_params, push_X, push_delivered, frame]
    exact ok
  · rw [push_params, frame] at tr
    rw [push_X, push_delivered, frame]
    dsimp only
    rw [agrees tr]
    exact protocolPending_of_eventsOnly (by rw [eventsOnly_append, eventsOnly_of_quiet quiet, others tr]; rfl)

/-- A wire element of a `send` in progress. -/
theorem bridgeOk_wire {s : State} {n : Nat} {st : Option InitStage} {rest : List Micro} (w : Wire)
    (hq : s.seq = .running n st rest)
    (ok : s.params.transport = .i2cBridge → DeliveredOk s.X.firstCommandSent s.delivered)
    (pending : s.params.transport = .i2cBridge →
      protocolPending s.X.firstCommandSent (!s.delivered.isEmpty) (.wire w :: rest) = true) :
    (s.wire w).settle.BridgeOk := by
  cases w with
  | call c =>
    obtain ⟨_, failed⟩ | ⟨_, done⟩ := perform_cases s c
    · rw [State.wire, failed]
      exact settle_bridgeOk_of_halted (Option.some_ne_none _) ok
    · rw [State.wire, done, complete_eq_afterCalls]
      exact bridgeOk_of_running (n := n + 1) (st := st) (rest := rest) (by rw [State.afterCalls, hq]; rfl) ok pending
  | sentFirst =>
    refine bridgeOk_of_running (s := s.wire .sentFirst) hq (fun tr => ?_) pending
    obtain ⟨_, head, narrow⟩ := ok tr
    exact ⟨fun h => (by cases h), head, narrow⟩
  | ret c r =>
    have parts (tr : s.params.transport = .i2cBridge) : s.X.firstCommandSent = true ∧ isEightBitRequest c = false
        ∧ (s.delivered = [] → c = bootstrap) ∧ protocolPending s.X.firstCommandSent true rest = true := by
      have pending := pending tr
      simp only [protocolPending, Bool.and_eq_true, Bool.or_eq_true, Bool.not_eq_true', decide_eq_true_eq] at pending
      obtain ⟨⟨⟨first, narrow⟩, any⟩, later⟩ := pending
      exact ⟨first, narrow, fun nothing => any.resolve_left (by simp [nothing]), later⟩
    refine bridgeOk_of_running (s := s.wire (.ret c r)) hq (fun tr => ?_) fun tr => ?_
    · obtain ⟨first, narrow, bootstrapFirst, _⟩ := parts tr
      have := deliveredOk_append (ok tr) narrow bootstrapFirst
      rwa [← first] at this
    · obtain ⟨_, _, _, later⟩ := parts tr
      show protocolPending s.X.firstCommandSent (!(s.delivered ++ [c]).isEmpty) rest = true
      rwa [show (s.delivered ++ [c]).isEmpty = false by simp]

/-- An action other than a wire element is taken between two `send`s. -/
theorem agrees_of_protocolPending {first any : Bool} {m : Micro} {ms : List Micro} (notWire : ∀ w, m ≠ .wire w)
    (pending : protocolPending first any (m :: ms) = true) : first = any ∧ eventsOnly ms = true := by
  cases m with
  | wire w => exact absurd rfl (notWire w)
  | _ => simpa [protocolPending] using pending

/-- An action keeps the protocol. -/
theorem bridgeOk_micro {s : State} {n : Nat} {st : Option InitStage} {rest : List Micro} (m : Micro)
    (hq : s.seq = .running n st rest)
    (ok : s.params.transport = .i2cBridge → DeliveredOk s.X.firstCommandSent s.delivered)
    (pending : s.params.transport = .i2cBridge →
      protocolPending s.X.firstCommandSent (!s.delivered.isEmpty) (m :: rest) = true) :
    (s.micro m).settle.BridgeOk := by
  by_cases wire : ∃ w, m = .wire w
  · obtain ⟨w, rfl⟩ := wire
    exact bridgeOk_wire w hq ok pending
  have notWire : ∀ w, m ≠ .wire w := fun w eq => wire ⟨w, eq⟩
  have between := fun tr => agrees_of_protocolPending notWire (pending tr)
  obtain ⟨w, rfl⟩ | ⟨e, raises⟩ | ⟨c, ws, _, accepted, sends⟩ | ⟨t, ms, expands, silent, quiet⟩ := micro_cases s m
  · exact absurd rfl (notWire w)
  · rw [raises]
    exact settle_bridgeOk_of_halted (Option.some_ne_none _) ok
  · rw [sends]
    refine bridgeOk_of_running (n := n) (st := st) (rest := ws.map .wire ++ rest) (by rw [push_seq, hq]; rfl) ok fun tr => ?_
    obtain ⟨agrees, others⟩ := between tr
    exact protocolPending_wires tr accepted rfl agrees others
  · rw [expands]
    exact bridgeOk_of_silent silent quiet hq ok (fun tr => (between tr).1) fun tr => (between tr).2

/-- A delivery from an idle bridge keeps the protocol: what it delivers passed the checks. -/
theorem bridgeOk_deliver {s t : State} {c : Except FatalError Command} (idle : s.seq = .idle) (ok : s.BridgeOk)
    (next : deliver c s = .next t) : t.BridgeOk := by
  obtain ⟨running, ends⟩ := deliver_next_cases next
  have delivered := fun tr => deliveredOk_of_bridgeOk tr ok
  obtain ⟨e, _, rfl⟩ | ⟨d, _, halted, rfl⟩ | ⟨d, _, completes, rfl⟩ := ends
  · exact bridgeOk_of_halted (Option.some_ne_none _) delivered
  · refine bridgeOk_of_halted halted ?_
    obtain ⟨e, _, raises⟩ | ⟨ws, k, _, _, _, stops⟩ | ⟨ws, _, _, sends⟩ := sendNow_outcome (s := s.opening) running d
    · rw [raises]; exact delivered
    · rw [stops]; exact delivered
    · rw [sends] at halted; exact absurd running halted
  · obtain ⟨e, _, raises⟩ | ⟨ws, k, _, _, _, stops⟩ | ⟨ws, accepted, _, sends⟩ :=
      sendNow_outcome (s := s.opening) running d
    · rw [raises] at completes; cases completes
    · rw [stops] at completes; cases completes
    · rw [sends]
      have set (tr : s.params.transport = .i2cBridge) : firstSentAfter s = true := by rw [firstSentAfter, tr]
      refine bridgeOk_of_idle idle (fun (tr : s.params.transport = .i2cBridge) => ?_)
        fun (tr : s.params.transport = .i2cBridge) => ?_
      · obtain ⟨_, ⟨tr', _⟩ | ⟨tr', _⟩ | ⟨_, _, bootstrapped, narrow⟩⟩ := wiresOf_ok_cases accepted
        · cases tr.symm.trans tr'
        · cases tr.symm.trans tr'
        · have first : s.delivered = [] → d = bootstrap := fun nothing =>
            bootstrapped ((firstCommandSent_of_idle tr ok running idle).trans (by rw [nothing]; rfl))
          have := deliveredOk_append (delivered tr) narrow first
          rwa [← set tr] at this
      · show firstSentAfter s = !(s.delivered ++ [d]).isEmpty
        rw [set tr]
        simp

/-- Settles O54. -/
theorem everyStepKeepsTheBridgeProtocol : Obligations.EveryStepKeepsTheBridgeProtocol := by
  intro s t ok next
  obtain ⟨running, cases⟩ := step_next_cases next
  have delivered := fun tr => deliveredOk_of_bridgeOk (s := s) tr ok
  obtain ⟨_, rfl⟩ | ⟨rs, c, idle, delivers⟩ | ⟨rs, o, idle, _, rfl⟩ | ⟨n, st, hq, rfl⟩ | ⟨n, st, m, ms, hq, rfl⟩ := cases
  · exact ok
  · exact bridgeOk_deliver (s := { s with requests := rs }) idle ok delivers
  · obtain ⟨e, raises⟩ | ⟨t, ms, begins, silent, quiet⟩ := begin_silent (s.taking rs) o
    · rw [raises]
      exact settle_bridgeOk_of_halted (Option.some_ne_none _) delivered
    · rw [begins]
      exact bridgeOk_of_silent silent quiet rfl delivered
        (fun tr => firstCommandSent_of_idle (s := s) tr ok running idle) fun _ => rfl
  · exact bridgeOk_of_idle rfl delivered fun tr => eq_of_beq (protocolPending_of_running (s := s) tr ok running hq)
  · exact bridgeOk_micro (s := { s with seq := .running n st ms }) m rfl delivered
      fun tr => protocolPending_of_running (s := s) tr ok running hq

/-- Settles O37: nothing has been driven or delivered, and the cursor and the window are home. -/
theorem constructionMeetsTheInvariants : Obligations.ConstructionMeetsTheInvariants := by
  have accepted (p : Params) (font : fontLineOk p.config.lineMode p.config.font = true) :
      (State.constructed p).ShadowOk ∧ (State.constructed p).EnableOk ∧ (State.constructed p).BridgeOk := by
    refine ⟨fun _ => ⟨font, positionsWithin_iff.mpr ⟨?_, lineCapacity_pos _⟩⟩, fun _ => rfl,
      bridgeOk_of_idle rfl (fun _ => ⟨fun _ => rfl, .inl rfl, by simp [State.constructed]⟩) fun _ => rfl⟩
    have rows (m : LineMode) : 0 < rowCount m := by cases m <;> decide
    exact inBounds_iff.mpr ⟨lineCapacity_pos _, rows _⟩
  refine ⟨fun p => ?_, accepted Params.reset rfl⟩
  rw [State.construct]
  cases error : constructionError p with
  | none =>
    refine accepted p ?_
    by_contra font
    cases htr : p.transport <;> simp [constructionError, dataLines, htr, font] at error <;> split at error <;> cases error
  | some e =>
    exact ⟨fun h => (by cases h), fun h => (by cases h),
      bridgeOk_of_halted (Option.some_ne_none e) fun _ => ⟨fun _ => rfl, .inl rfl, by simp [State.constructed]⟩⟩

/-- Packs the induction over a run: what holds at its start and is kept by every step holds at its end. -/
theorem runs_induction {P : State → Prop} (keeps : ∀ s t, P s → step s = .next t → P t) {k : Nat} {s t : State}
    (runs : Runs k s t) (start : P s) : P t := by
  induction k generalizing s with
  | zero => cases runs; exact start
  | succ k ih =>
    simp only [Runs, Host.Core.run] at runs
    split at runs
    · next u first => exact ih runs (keeps s u start first)
    · cases runs
    · cases runs

/-- The invariant of a bridge from its construction on. -/
theorem bridgeOk_of_runs {s t : State} {k : Nat} (ok : s.BridgeOk) (runs : Runs k s t) :
    t.params = s.params ∧ t.BridgeOk := by
  refine runs_induction (P := fun u => u.params = s.params ∧ u.BridgeOk) ?_ runs ⟨rfl, ok⟩
  rintro u v ⟨params, ok⟩ next
  obtain ⟨params', _⟩ := later_step next
  exact ⟨params'.trans params, everyStepKeepsTheBridgeProtocol u v ok next⟩

/-- Settles O52: construction meets the protocol (O37), every step keeps it (O54), and so every run does. -/
theorem bridgeProtocolIsNeverViolated : Obligations.BridgeProtocolIsNeverViolated := by
  intro p requests env k t tr runs
  obtain ⟨_, _, constructed⟩ := constructionMeetsTheInvariants.1 p
  have start : ({ State.construct p with requests := requests, env := env } : State).BridgeOk := constructed
  obtain ⟨params, ok⟩ := bridgeOk_of_runs start runs
  have same : t.params.transport = .i2cBridge := by
    rw [params]
    show (State.construct p).params.transport = _
    rw [State.construct]
    split <;> exact tr
  obtain ⟨before, head, narrow⟩ := deliveredOk_of_bridgeOk same ok
  refine ⟨head.imp_right fun first => ?_, before, fun b mem => ?_⟩
  · obtain ⟨cs, cut⟩ := List.head?_eq_some_iff.mp first
    exact ⟨cs, cut⟩
  · rw [← isEightBitRequest_instruction, narrow _ mem]
    exact Bool.false_ne_true

/-- Settles O41: each action of the loop pushes what comes next. -/
theorem pollLoopFollowsItsRule : Obligations.PollLoopFollowsItsRule := by
  intro s n st c rest running
  have pushes (m : Micro) (ms : List Micro) (hq : s.seq = .running n st (m :: rest))
      (expands : ({ s with seq := .running n st rest } : State).micro m
        = ({ s with seq := .running n st rest } : State).push ms) (some : ms ≠ []) :
      step s = .next { s with seq := .running n st (ms ++ rest) } := by
    rw [step_running running hq, expands]
    obtain ⟨m', ms', rfl⟩ := List.exists_cons_of_ne_nil some
    simp only [State.settle, State.push, Seq.push, running, List.cons_append]
  refine ⟨fun hq => pushes _ _ hq rfl (List.cons_ne_nil _ _), fun r hq sent busy => ?_, fun r hq sent idle => ?_⟩
  · refine pushes _ [event (.delayUs s.pollInterval), .waitIdle c] hq ?_ (List.cons_ne_nil _ _)
    simp only [State.micro, pollActions, sent, busyFlag, busy, if_true]
  · refine pushes _ [.send c] hq ?_ (List.cons_ne_nil _ _)
    simp only [State.micro, pollActions, sent, busyFlag, idle, Bool.false_eq_true, if_false]

end Sys2Proof.Machine
end

section
/-! Runs of an operation in progress, action by action (R29): `Goes` takes the actions of a running block one after the
other, and leaves out that an operation becomes idle after its last one. -/
namespace Sys2Proof.Machine
open Sys2Proof.Claim

/-- `k` actions of the operation in progress lead from `s` to `t`. -/
inductive Goes : Nat → State → State → Prop
  | stay (s : State) : Goes 0 s s
  | act {k : Nat} {s t : State} {n : Nat} {st : Option InitStage} {m : Micro} {ms : List Micro}
      (running : s.fatal = none) (hq : s.seq = .running n st (m :: ms))
      (more : Goes k (({ s with seq := .running n st ms } : State).micro m) t) : Goes (k + 1) s t

/-- `k` actions of the operation in progress lead from `s` to `t`, and its named step is the same throughout (R162). -/
inductive Stays : Nat → State → State → Prop
  | stay (s : State) : Stays 0 s s
  | act {k : Nat} {s t : State} {n : Nat} {st : Option InitStage} {m : Micro} {ms : List Micro}
      (running : s.fatal = none) (hq : s.seq = .running n st (m :: ms))
      (same : stageOf (({ s with seq := .running n st ms } : State).micro m) = stageOf s)
      (more : Stays k (({ s with seq := .running n st ms } : State).micro m) t) : Stays (k + 1) s t

theorem goes_of_stays {k : Nat} {s t : State} (stays : Stays k s t) : Goes k s t := by
  induction stays with
  | stay s => exact .stay s
  | act running hq _ _ ih => exact .act running hq ih

/-- An operation is in progress, in a block that is not halted. -/
def Working (s : State) : Prop := s.fatal = none ∧ ∃ n st rest, s.seq = .running n st rest

/-- An operation in progress has taken its last action. -/
def Ended (s : State) : Prop := s.fatal = none ∧ ∃ n st, s.seq = .running n st []

/-- The block after an operation that has ended (R30). -/
def State.rested (s : State) : State := { s with seq := .idle }

theorem goes_trans {j k : Nat} {s u t : State} (first : Goes j s u) (second : Goes k u t) : Goes (j + k) s t := by
  induction first with
  | stay s => rwa [Nat.zero_add]
  | act running hq _ ih =>
    rw [Nat.add_right_comm]
    exact .act running hq (ih second)

theorem stays_trans {j k : Nat} {s u t : State} (first : Stays j s u) (second : Stays k u t) : Stays (j + k) s t := by
  induction first with
  | stay s => rwa [Nat.zero_add]
  | act running hq same _ ih =>
    rw [Nat.add_right_comm]
    exact .act running hq same (ih second)

/-- Of two runs from one state the shorter is the beginning of the longer. -/
theorem goes_of_goes_le {j k : Nat} {s u t : State} (first : Goes j s u) (whole : Goes k s t) (le : j ≤ k) :
    Goes (k - j) u t := by
  induction first generalizing k with
  | stay s => exact whole
  | act running hq more ih =>
    cases whole with
    | stay s => omega
    | act running' hq' more' =>
      cases hq.symm.trans hq'
      rw [Nat.add_sub_add_right]
      exact ih more' (by omega)

theorem not_goes_of_ended {k : Nat} {s t : State} (ended : Ended s) (goes : Goes (k + 1) s t) : False := by
  obtain ⟨_, n, st, hq⟩ := ended
  cases goes with
  | act _ hq' _ => rw [hq] at hq'; cases hq'

/-- A run to the end of an operation passes through every state its actions lead to. -/
theorem goes_through {j k : Nat} {s u t : State} (whole : Goes k s t) (ended : Ended t) (first : Goes j s u) :
    ∃ i, k = j + i ∧ Goes i u t := by
  rcases Nat.le_total j k with le | ge
  · exact ⟨k - j, by omega, goes_of_goes_le first whole le⟩
  · have rest := goes_of_goes_le whole first ge
    cases excess : j - k with
    | zero => exact ⟨0, by omega, by rw [excess] at rest; cases rest; exact .stay _⟩
    | succ i => rw [excess] at rest; exact (not_goes_of_ended ended rest).elim

/-- A halted block takes no action (R28), so it is on no run that ends. -/
theorem not_ended_of_halted {k : Nat} {s t : State} (goes : Goes k s t) (halted : s.fatal ≠ none) : ¬ Ended t := by
  rintro ⟨running, _⟩
  cases goes with
  | stay s => exact halted running
  | act running' _ _ => exact halted running'

/-! ## Actions put before those left -/

theorem push_push (s : State) (ms ns : List Micro) : (s.push ms).push ns = s.push (ns ++ ms) := by
  obtain ⟨p, S, pi, X, f, q, rx, se, re, rq, e, tr, d⟩ := s
  cases q <;> simp [State.push, Seq.push]

theorem working_push {s : State} (working : Working s) (ms : List Micro) : Working (s.push ms) := by
  obtain ⟨running, n, st, rest, hq⟩ := working
  exact ⟨running, n, st, ms ++ rest, by rw [push_seq, hq]; rfl⟩

@[simp] theorem stageOf_push (s : State) (ms : List Micro) : stageOf (s.push ms) = stageOf s := by
  rw [stageOf, stageOf, push_seq]
  cases s.seq <;> rfl

/-- The first action of those put first, and the state it is taken in. -/
theorem push_cons_next {s : State} (working : Working s) (m : Micro) (ms : List Micro) :
    ∃ n st rest, (s.push (m :: ms)).seq = .running n st (m :: rest)
      ∧ s.push ms = { s.push (m :: ms) with seq := .running n st rest } := by
  obtain ⟨_, n, st, rest, hq⟩ := working
  refine ⟨n, st, ms ++ rest, by rw [push_seq, hq]; rfl, ?_⟩
  rw [State.push, hq]
  rfl

/-- It is taken; the named step stays if the action keeps it. -/
theorem stays_push_cons {s : State} (working : Working s) (m : Micro) (ms : List Micro)
    (same : stageOf ((s.push ms).micro m) = stageOf s) : Stays 1 (s.push (m :: ms)) ((s.push ms).micro m) := by
  obtain ⟨n, st, rest, before, after⟩ := push_cons_next working m ms
  rw [after] at same ⊢
  exact .act working.1 before (by rw [same, stageOf_push]) (.stay _)

theorem goes_push_cons {s : State} (working : Working s) (m : Micro) (ms : List Micro) :
    Goes 1 (s.push (m :: ms)) ((s.push ms).micro m) := by
  obtain ⟨n, st, rest, before, after⟩ := push_cons_next working m ms
  rw [after]
  exact .act working.1 before (.stay _)

theorem goes_push {s : State} (working : Working s) (m : Micro) : Goes 1 (s.push [m]) (s.micro m) := by
  have := goes_push_cons working m []
  rwa [push_nil] at this

theorem complete_push (s : State) (ms : List Micro) (c : Call) : (s.push ms).complete c = (s.complete c).push ms := by
  obtain ⟨p, S, pi, X, f, q, rx, se, re, rq, e, tr, d⟩ := s
  cases c <;> cases q <;> rfl

/-- A wire element has nothing to do with the actions left. -/
theorem wire_push (s : State) (ms : List Micro) (w : Wire) : (s.push ms).wire w = (s.wire w).push ms := by
  cases w with
  | call c =>
    rw [State.wire, State.wire, State.perform, State.perform, complete_push]
    split
    · next fails => rw [if_pos (show s.env.failsNow = true from fails)]; rfl
    · next fails => rw [if_neg (show ¬ s.env.failsNow = true from fails)]
  | sentFirst => rfl
  | ret c r => rfl

theorem runWires_push (ws : List Wire) (s : State) (ms : List Micro) :
    State.runWires ws (s.push ms) = (State.runWires ws s).push ms := by
  induction ws generalizing s with
  | nil => rfl
  | cons w ws ih =>
    rw [State.runWires, State.runWires, wire_push, ih]
    cases halted : (s.wire w).fatal.isSome <;> simp [State.halted, halted]

theorem sendNow_push (s : State) (ms : List Micro) (c : Command) : (s.push ms).sendNow c = (s.sendNow c).push ms := by
  have same : wiresOf (s.push ms) c = wiresOf s c := rfl
  rw [State.sendNow, State.sendNow, same]
  cases wiresOf s c with
  | error e => rfl
  | ok ws => exact runWires_push ws { s with rx := [] } ms

/-! ## A `send`, action by action -/

theorem working_wire {s : State} (working : Working s) {w : Wire} (goesOn : (s.wire w).fatal = none) :
    Working (s.wire w) := by
  obtain ⟨_, n, st, rest, hq⟩ := working
  obtain ⟨_, seq⟩ | ⟨e, _, seq⟩ := wire_trace_seq s w
  · exact ⟨goesOn, n, st, rest, seq.trans hq⟩
  · exact ⟨goesOn, n + 1, st, rest, by rw [seq, hq]; rfl⟩

theorem stageOf_wire (s : State) (w : Wire) : stageOf (s.wire w) = stageOf s := by
  obtain ⟨_, seq⟩ | ⟨e, _, seq⟩ := wire_trace_seq s w
  · rw [stageOf, stageOf, seq]
  · rw [stageOf, stageOf, seq]
    cases s.seq <;> rfl

theorem stays_push_wire {s : State} (working : Working s) (w : Wire) (ms : List Micro) :
    Stays 1 (s.push (.wire w :: ms)) ((s.wire w).push ms) := by
  have same : (s.push ms).micro (.wire w) = (s.wire w).push ms := wire_push s ms w
  have := stays_push_cons working (.wire w) ms (by rw [same, stageOf_push, stageOf_wire])
  rwa [same] at this

/-- A wire sequence that completes, taken element by element, ends where it ends when run whole. -/
theorem stays_wires {s : State} (working : Working s) {ws : List Wire}
    (completes : (State.runWires ws s).fatal = none) :
    Stays ws.length (s.push (ws.map .wire)) (State.runWires ws s) := by
  induction ws generalizing s with
  | nil => rw [List.map_nil, push_nil]; exact .stay s
  | cons w ws ih =>
    by_cases goesOn : (s.wire w).fatal = none
    · rw [runWires_cons w ws s goesOn] at completes ⊢
      rw [List.length_cons, Nat.add_comm]
      exact stays_trans (stays_push_wire working w _) (ih (working_wire working goesOn) completes)
    · rw [runWires_cons_halted w ws s goesOn] at completes
      exact absurd completes goesOn

/-- One that halts halts in the same state but for the actions left. -/
theorem goes_wires_halts {s : State} (working : Working s) {ws : List Wire}
    (halted : (State.runWires ws s).fatal ≠ none) :
    ∃ k t, Goes k (s.push (ws.map .wire)) t ∧ { t with seq := (State.runWires ws s).seq } = State.runWires ws s := by
  induction ws generalizing s with
  | nil => exact absurd working.1 halted
  | cons w ws ih =>
    have first := goes_of_stays (stays_push_wire working w (ws.map .wire))
    by_cases goesOn : (s.wire w).fatal = none
    · rw [runWires_cons w ws s goesOn] at halted ⊢
      obtain ⟨k, t, goes, same⟩ := ih (working_wire working goesOn) halted
      exact ⟨1 + k, t, goes_trans first goes, same⟩
    · rw [runWires_cons_halted w ws s goesOn]
      exact ⟨1, _, first, rfl⟩

/-- An accepted `send` becomes its wire elements. -/
theorem stays_expand_send {s : State} (working : Working s) {c : Command} {ws : List Wire}
    (accepted : wiresOf s c = .ok ws) :
    Stays 1 (s.push [.send c]) (({ s with rx := [] } : State).push (ws.map .wire)) := by
  have expands : (s.push []).micro (.send c) = ({ s with rx := [] } : State).push (ws.map .wire) := by
    rw [push_nil]
    simp only [State.micro, accepted]
  have := stays_push_cons working (.send c) [] (by rw [expands, stageOf_push]; rfl)
  rwa [expands] at this

/-- A `send` that completes, taken action by action, ends where the whole `send` does (R100). -/
theorem stays_send {s : State} (working : Working s) {c : Command} (completes : (s.sendNow c).fatal = none) :
    ∃ k, Stays (k + 1) (s.push [.send c]) (s.sendNow c) := by
  obtain ⟨e, refused, raises⟩ | ⟨ws, accepted, runs⟩ := sendNow_cases s c
  · rw [raises] at completes
    cases completes
  · rw [runs] at completes ⊢
    refine ⟨ws.length, ?_⟩
    rw [Nat.add_comm]
    exact stays_trans (stays_expand_send working accepted) (stays_wires (s := { s with rx := [] }) working completes)

/-- A `send` taken action by action ends where the whole `send` does (R100); and one that halts halts in the same state but
for the actions left. -/
theorem goes_send {s : State} (working : Working s) (c : Command) :
    ((s.sendNow c).fatal = none → ∃ k, Goes (k + 1) (s.push [.send c]) (s.sendNow c))
      ∧ ((s.sendNow c).fatal ≠ none →
          ∃ k t, Goes (k + 1) (s.push [.send c]) t ∧ { t with seq := (s.sendNow c).seq } = s.sendNow c) := by
  refine ⟨fun completes => (stays_send working completes).imp fun _ => goes_of_stays, fun halted => ?_⟩
  obtain ⟨e, refused, raises⟩ | ⟨ws, accepted, runs⟩ := sendNow_cases s c
  · have first := goes_push working (.send c)
    rw [show s.micro (.send c) = s.raise e by simp only [State.micro, refused]] at first
    exact ⟨0, _, first, by rw [raises]⟩
  · rw [runs] at halted ⊢
    obtain ⟨k, t, goes, same⟩ := goes_wires_halts (s := { s with rx := [] }) working halted
    exact ⟨k, t, by rw [Nat.add_comm]; exact goes_trans (goes_of_stays (stays_expand_send working accepted)) goes, same⟩

/-! ## Runs and steps -/

theorem runs_succ {k : Nat} {s u t : State} (first : step s = .next u) (rest : Runs k u t) : Runs (k + 1) s t := by
  simp only [Runs, Host.Core.run]
  rw [show core.step s = _ from first]
  exact rest

theorem runs_succ_inv {k : Nat} {s t : State} (runs : Runs (k + 1) s t) : ∃ u, step s = .next u ∧ Runs k u t := by
  simp only [Runs, Host.Core.run] at runs
  split at runs
  · next u first => exact ⟨u, first, runs⟩
  · cases runs
  · cases runs

/-- A step of a running block is its first action, settled. -/
theorem settle_of_goes {k : Nat} {s t : State} (goes : Goes (k + 1) s t) : s.settle = s := by
  cases goes with
  | act running hq _ =>
    rw [State.settle, running, hq]

theorem settle_of_halted {s : State} (halted : s.fatal ≠ none) : s.settle = s := by
  unfold State.settle
  split
  · next running _ => exact absurd running halted
  · rfl

theorem settle_of_ended {s : State} (ended : Ended s) : s.settle = s.rested := by
  obtain ⟨running, n, st, hq⟩ := ended
  exact settle_of_no_action_left running hq

/-- Actions of the block are steps of it, the last one settled. -/
theorem runs_of_goes {k : Nat} {s t : State} (goes : Goes (k + 1) s t) : Runs (k + 1) s t.settle := by
  induction k generalizing s with
  | zero =>
    cases goes with
    | act running hq more =>
      cases more
      exact runs_succ (step_running running hq) rfl
  | succ k ih =>
    cases goes with
    | act running hq more =>
      have rest := ih more
      exact runs_succ ((step_running running hq).trans (by rw [settle_of_goes more])) rest

/-- Where actions are left or the block has halted, settling changes nothing. -/
theorem runs_of_goes_unsettled {k : Nat} {s t : State} (goes : Goes k s t)
    (left : t.fatal ≠ none ∨ ∃ n st m ms, t.seq = .running n st (m :: ms)) : Runs k s t := by
  cases k with
  | zero => cases goes; rfl
  | succ k =>
    have same : t.settle = t := by
      obtain halted | ⟨n, st, m, ms, hq⟩ := left
      · exact settle_of_halted halted
      · unfold State.settle
        split
        · next hq' => rw [hq] at hq'; cases hq'
        · rfl
    have := runs_of_goes goes
    rwa [same] at this

/-- A whole `send` leaves the named step and the actions left alone. -/
theorem sendNow_seq {s : State} {n : Nat} {st : Option InitStage} {rest : List Micro} (running : s.fatal = none)
    (hq : s.seq = .running n st rest) (c : Command) : ∃ n', (s.sendNow c).seq = .running n' st rest := by
  obtain ⟨e, _, raises⟩ | ⟨ws, k, _, _, _, stops⟩ | ⟨ws, _, _, completes⟩ := sendNow_outcome running c
  · rw [raises]
    exact ⟨n, hq⟩
  · rw [stops]
    exact ⟨n + ((callsOf ws).take k).length, by rw [raise_seq, State.afterCalls, hq]; rfl⟩
  · rw [completes]
    exact ⟨n + (callsOf ws).length, by rw [State.delivering, State.closed, State.afterCalls, hq]; rfl⟩

/-- Settles O40: the whole `send` and its actions end alike (`goes_send`). -/
theorem sequencedSendEqualsWholeSend : Obligations.SequencedSendEqualsWholeSend := by
  intro s n st c rest running hq
  have working : Working { s with seq := .running n st rest } := ⟨running, n, st, rest, rfl⟩
  have start : ({ s with seq := .running n st rest } : State).push [.send c] = s := by
    rw [State.push]
    simp only [Seq.push, List.singleton_append, ← hq]
  obtain ⟨n', seq⟩ := sendNow_seq (s := { s with seq := .running n st rest }) running rfl c
  obtain ⟨whole, halts⟩ := goes_send working c
  rw [start] at whole halts
  refine ⟨fun completes some => ?_, fun completes none => ?_, fun halted => ?_⟩
  · obtain ⟨k, goes⟩ := whole completes
    obtain ⟨m, ms, rfl⟩ := List.exists_cons_of_ne_nil some
    exact ⟨k + 1, runs_of_goes_unsettled goes (.inr ⟨n', st, m, ms, seq⟩)⟩
  · obtain ⟨k, goes⟩ := whole completes
    have := runs_of_goes goes
    rw [settle_of_ended ⟨completes, n', st, by rw [seq, none]⟩] at this
    exact ⟨k + 1, this⟩
  · obtain ⟨k, t, goes, same⟩ := halts halted
    have halted' : t.fatal ≠ Option.none := by rw [← same] at halted; exact halted
    exact ⟨k + 1, t, runs_of_goes_unsettled goes (.inl halted'), same⟩

end Sys2Proof.Machine
end

section
/-! The operations of the transport (R100, R116 to R118): they end where the whole `send` of their Command does. -/
namespace Sys2Proof.Machine
open Sys2Proof.Claim

theorem runs_trans {j k : Nat} {s u t : State} (first : Runs j s u) (rest : Runs k u t) : Runs (j + k) s t := by
  induction j generalizing s with
  | zero => cases first; rwa [Nat.zero_add]
  | succ j ih =>
    obtain ⟨v, next, more⟩ := runs_succ_inv first
    rw [Nat.add_right_comm]
    exact runs_succ next (ih more)

/-- The state with the sequencer at another position. -/
def State.placed (s : State) (q : Seq) : State := { s with seq := q }

/-- The state with another value to return. -/
def State.returning (s : State) (r : Result) : State := { s with result := r }

/-- A running block takes the first of its actions. -/
theorem goes_of_micro {s t : State} {n : Nat} {st : Option InitStage} {m : Micro} {ms : List Micro}
    (running : s.fatal = none) (hq : s.seq = .running n st (m :: ms))
    (becomes : (s.placed (.running n st ms)).micro m = t) : Goes 1 s t :=
  becomes ▸ .act running hq (.stay _)

/-- Where the sequencer stands makes no difference to a wire element. -/
theorem wire_placed (s : State) (q : Seq) (w : Wire) : ∃ q', (s.placed q).wire w = (s.wire w).placed q' := by
  cases w with
  | call c =>
    obtain ⟨fails, failed⟩ | ⟨succeeds, done⟩ := perform_cases s c
    · obtain ⟨_, failed'⟩ | ⟨succeeds, _⟩ := perform_cases (s.placed q) c
      · exact ⟨q, by rw [State.wire, State.wire, failed, failed']; rfl⟩
      · exact absurd fails succeeds
    · obtain ⟨fails, _⟩ | ⟨_, done'⟩ := perform_cases (s.placed q) c
      · exact absurd fails succeeds
      · exact ⟨q.afterEvents 1, by
          rw [State.wire, State.wire, done, done', complete_eq_afterCalls, complete_eq_afterCalls]; rfl⟩
  | sentFirst => exact ⟨q, rfl⟩
  | ret c r => exact ⟨q, rfl⟩

theorem runWires_placed (ws : List Wire) (s : State) (q : Seq) :
    ∃ q', State.runWires ws (s.placed q) = (State.runWires ws s).placed q' := by
  induction ws generalizing s q with
  | nil => exact ⟨q, rfl⟩
  | cons w ws ih =>
    obtain ⟨q', first⟩ := wire_placed s q w
    obtain ⟨q'', rest⟩ := ih (s.wire w) q'
    by_cases goesOn : (s.wire w).fatal = none
    · exact ⟨q'', by
        rw [runWires_cons _ _ _ goesOn, runWires_cons _ _ _ (by rw [first]; exact goesOn), first, rest]⟩
    · exact ⟨q', by
        rw [runWires_cons_halted _ _ _ goesOn, runWires_cons_halted _ _ _ (by rw [first]; exact goesOn), first]⟩

/-- Where the sequencer stands makes no difference to a whole `send`. -/
theorem sendNow_placed (s : State) (q : Seq) (c : Command) : ∃ q', (s.placed q).sendNow c = (s.sendNow c).placed q' := by
  have same : wiresOf (s.placed q) c = wiresOf s c := rfl
  rw [State.sendNow, State.sendNow, same]
  cases wiresOf s c with
  | error e => exact ⟨q, rfl⟩
  | ok ws => exact runWires_placed ws { s with rx := [] } q

/-- A whole `send` from an idle block leaves it idle. -/
theorem sendNow_idle {s : State} (running : s.fatal = none) (idle : s.seq = .idle) (c : Command) :
    (s.sendNow c).seq = .idle := by
  obtain ⟨e, _, raises⟩ | ⟨ws, k, _, _, _, stops⟩ | ⟨ws, _, _, completes⟩ := sendNow_outcome running c
  · rw [raises]; exact idle
  · rw [stops, raise_seq, State.afterCalls, idle]; rfl
  · rw [completes, State.delivering, State.closed, State.afterCalls, idle]; rfl

/-- A requested `send` with a value to return after it ends where the whole `send` from the idle block `v` does, and halts
where it halts. -/
theorem requested_send_ends {s v : State} {j n : Nat} {c : Command} {m : Micro} {value : Option Byte → Result}
    (running : v.fatal = none) (idle : v.seq = .idle) (begins : Runs j s (v.placed (.running n none [.send c, m])))
    (returns : ∀ u : State, u.micro m = u.returning (value u.sent)) :
    ((v.sendNow c).fatal = none → RunsToIdle s ((v.sendNow c).returning (value (v.sendNow c).sent)))
      ∧ ((v.sendNow c).fatal ≠ none →
          ∃ k t, Runs k s t ∧ t.fatal = (v.sendNow c).fatal ∧ t.trace = (v.sendNow c).trace ∧ t.S = v.S) := by
  have working : Working (v.placed (.running n none [])) := ⟨running, n, none, [], rfl⟩
  have start : v.placed (.running n none [.send c, m]) = ((v.placed (.running n none [])).push [m]).push [.send c] := rfl
  obtain ⟨whole, halts⟩ := goes_send (working_push working [m]) c
  obtain ⟨q, ends⟩ := sendNow_placed v (.running n none []) c
  obtain ⟨n', seq⟩ := sendNow_seq (s := v.placed (.running n none [])) running rfl c
  have place : q = .running n' none [] := by rwa [ends] at seq
  rw [sendNow_push, ends] at whole halts
  rw [start] at begins
  constructor
  · intro completes
    obtain ⟨k, goes⟩ := whole completes
    have last := goes_push (s := (v.sendNow c).placed q) ⟨completes, n', none, [], place⟩ m
    have all := runs_of_goes (goes_trans goes last)
    rw [returns, settle_of_ended (s := ((v.sendNow c).placed q).returning _) ⟨completes, n', none, place⟩] at all
    have same : (((v.sendNow c).placed q).returning (value (v.sendNow c).sent)).rested
        = (v.sendNow c).returning (value (v.sendNow c).sent) := by
      rw [State.rested, ← sendNow_idle running idle c]
      rfl
    have sum := runs_trans begins all
    exact ⟨j + (k + 1), same ▸ sum, sendNow_idle running idle c⟩
  · intro halted
    obtain ⟨k, t, goes, same⟩ := halts halted
    have fatal : t.fatal = (v.sendNow c).fatal := by have := congrArg State.fatal same; exact this
    have trace : t.trace = (v.sendNow c).trace := by have := congrArg State.trace same; exact this
    have shadow : t.S = (v.sendNow c).S := by have := congrArg State.S same; exact this
    exact ⟨j + (k + 1), t, runs_trans begins (runs_of_goes_unsettled goes (.inl (by rw [fatal]; exact halted))),
      fatal, trace, shadow.trans (sendNow_S v c)⟩

/-- A read that completes has a byte (R100, R106, R107, R113). -/
theorem sent_of_read {s : State} {rs : RegSel} (running : s.fatal = none)
    (completes : (s.sendNow (readCommand rs)).fatal = none) : ∃ b, (s.sendNow (readCommand rs)).sent = some b := by
  obtain ⟨e, _, raises⟩ | ⟨ws, k, _, _, _, stops⟩ | ⟨ws, _, _, sends⟩ := sendNow_outcome running (readCommand rs)
  · rw [raises] at completes; cases completes
  · rw [stops] at completes; cases completes
  · rw [sends, State.delivering, State.closed]
    cases tr : s.params.transport <;> simp [State.afterCalls, readBackOf, readCommand, tr, readBackByte]

theorem wiresOf_of_malformed {s : State} {c : Command} (malformed : Malformed c) :
    wiresOf s c = .error .malformedCommand := by
  have bad : c.wellFormed = false := by
    obtain ⟨rs, rw, data⟩ := c
    obtain ⟨rfl, rfl⟩ | ⟨rfl, payload⟩ | ⟨rfl, n, rfl⟩ := malformed
    · rfl
    · cases data <;> first | rfl | exact absurd rfl payload
    · cases rw <;> rfl
  rw [wiresOf, bad]
  rfl

/-- Settles O53, operation by operation. -/
theorem transportOperationsSendAndReturn : Obligations.TransportOperationsSendAndReturn := by
  intro s c taken whole busy
  refine ⟨fun asked => ?_, fun rs asked malformed => ?_, fun asked => ?_, fun d asked succeeds => ?_,
    fun d asked fails => ?_, fun rs asked => step_of_asked_begun asked rfl, fun i rs asked => ⟨fun cmd encodes => ?_, fun e error => ?_⟩⟩
  · have ⟨running, idle, _⟩ := asked
    exact requested_send_ends (v := taken) (n := 0) (m := .returnSent) (value := resultOfSent) running idle
      (runs_succ (k := 0) (step_of_asked_begun asked rfl) rfl) fun _ => rfl
  · have ⟨running, _, _⟩ := asked
    refine runs_succ (step_of_asked_begun asked rfl) (runs_succ ?_ rfl)
    rw [step_running (s := begun s rs s.S [.send c, .returnSent]) running rfl]
    simp only [State.micro, wiresOf_of_malformed malformed]
    rw [settle_of_halted (Option.some_ne_none _)]
    rfl
  · have ⟨running, idle, _⟩ := asked
    obtain ⟨completes, halts⟩ := requested_send_ends (v := taken) (n := 0) (m := .returnBusy) (c := busyRead)
      (value := fun b => .bool (busyFlag b)) running idle (runs_succ (k := 0) (step_of_asked_begun asked rfl) rfl) fun _ => rfl
    refine ⟨fun done => ?_, halts⟩
    obtain ⟨r, sent⟩ := sent_of_read (s := taken) (rs := .command) running done
    have ends := completes done
    rw [show (taken.sendNow busyRead).sent = some r from sent] at ends
    exact ⟨r, sent, ends⟩
  · have ⟨running, idle, _⟩ := asked
    intro slept
    have first : Goes 1 (begun s [] s.S [event (.delayUs d), .send c, .returnSent])
        (slept.placed (.running 1 none [.send c, .returnSent])) := by
      obtain ⟨fails, _⟩ | ⟨_, done⟩ := perform_cases (begun s [] s.S [.send c, .returnSent]) (.delayUs d)
      · exact absurd fails succeeds
      · exact goes_of_micro running rfl done
    exact requested_send_ends (v := slept) (value := resultOfSent) running idle
      (runs_succ (step_of_asked_begun asked rfl) (runs_of_goes_unsettled first (.inr ⟨1, none, _, _, rfl⟩))) fun _ => rfl
  · have ⟨running, idle, _⟩ := asked
    have first : Goes 1 (begun s [] s.S [event (.delayUs d), .send c, .returnSent])
        ((begun s [] s.S [.send c, .returnSent]).raise (.ioFault (.delayUs d))) := by
      obtain ⟨_, failed⟩ | ⟨passes, _⟩ := perform_cases (begun s [] s.S [.send c, .returnSent]) (.delayUs d)
      · exact goes_of_micro running rfl failed
      · exact absurd fails passes
    exact ⟨2, _, runs_succ (step_of_asked_begun asked rfl) (runs_of_goes_unsettled first (.inl (Option.some_ne_none _))),
      rfl, rfl, rfl⟩
  · exact step_of_asked_returnNow asked (by simp only [startOp, startEncode, encodes])
  · exact step_of_asked_error asked (by simp only [startOp, startEncode, error])

end Sys2Proof.Machine
end

section
/-! The busy flag and the poll loop (R117, R118): what a busy-flag read answers, and a round of the loop. -/
namespace Sys2Proof.Machine
open Sys2Proof.Claim

/-! ## Listed answers -/

theorem drawLevels_of_listed {e : Env} {j n : Nat} {v : Level} (listed : e.levels[j]? = some v) (inside : j < n) :
    (drawLevels n e)[j]? = some v := by
  induction n generalizing e j with
  | zero => omega
  | succ n ih =>
    cases levels : e.levels with
    | nil => rw [levels] at listed; cases listed
    | cons u us =>
      rw [levels] at listed
      cases j with
      | zero => simpa [drawLevels, Env.nextLevel, levels] using listed
      | succ j => exact ih (e := e.afterLevel) (by rw [Env.afterLevel, levels]; exact listed) (by omega)

theorem nextByte_of_listed {e : Env} {b : Byte} (listed : e.bytes[0]? = some b) : e.nextByte = b := by
  unfold Env.nextByte
  cases bytes : e.bytes with
  | nil => rw [bytes] at listed; cases listed
  | cons c cs => rw [bytes] at listed; cases listed; rfl

/-! ## The busy flag of a read -/

/-- Whether the next busy-flag read finds the controller busy: bit 3 of the first nibble (R106, R113), or `DL[7]` (R107). -/
def busyAnswer (p : Params) (e : Env) : Bool :=
  match p.transport with
  | .parallelFourBit => decide ((drawLevels 8 e)[3]? = some .high)
  | .parallelEightBit => decide ((drawLevels 8 e)[7]? = some .high)
  | .i2cBridge => (e.nextByte >>> p.latch.dataLsb).getLsbD 3

theorem val_le_one (v : Level) : val v ≤ 1 := by cases v <;> decide

/-- The highest bit of a byte given by a number. -/
theorem getLsbD_seven_ofNat {v : Level} {rest : Nat} (small : rest < 128) :
    (BitVec.ofNat 8 (128 * val v + rest)).getLsbD 7 = decide (v = .high) := by
  rw [BitVec.getLsbD_ofNat, Nat.testBit_eq_decide_div_mod_eq]
  cases v <;> simp [val] <;> omega

theorem busyFlag_byteOfNibbles (h0 h1 h2 h3 l0 l1 l2 l3 : Level) :
    (byteOfNibbles [h0, h1, h2, h3, l0, l1, l2, l3]).getLsbD 7 = decide (h3 = .high) := by
  have := val_le_one h2; have := val_le_one h1; have := val_le_one h0
  have := val_le_one l3; have := val_le_one l2; have := val_le_one l1; have := val_le_one l0
  rw [byteOfNibbles_eq, ← getLsbD_seven_ofNat (v := h3) (rest := 64 * val h2 + 32 * val h1 + 16 * val h0
    + 8 * val l3 + 4 * val l2 + 2 * val l1 + val l0) (by omega)]
  congr 2
  omega

theorem busyFlag_byteOfLevels (l0 l1 l2 l3 l4 l5 l6 l7 : Level) :
    (byteOfLevels [l0, l1, l2, l3, l4, l5, l6, l7]).getLsbD 7 = decide (l7 = .high) := by
  have := val_le_one l6; have := val_le_one l5; have := val_le_one l4
  have := val_le_one l3; have := val_le_one l2; have := val_le_one l1; have := val_le_one l0
  rw [byteOfLevels_eq, ← getLsbD_seven_ofNat (v := l7) (rest := val l0 + 2 * val l1 + 4 * val l2 + 8 * val l3
    + 16 * val l4 + 32 * val l5 + 64 * val l6) (by omega)]
  congr 2
  omega

/-- Bit 7 of the byte a busy-flag read is answered (R118). -/
theorem busyFlag_delivering {s : State} {ws : List Wire} (accepted : wiresOf s busyRead = .ok ws) :
    busyFlag (s.delivering busyRead ws).sent = busyAnswer s.params s.env := by
  rw [State.delivering, State.closed]
  unfold busyRead at *
  simp only [State.afterCalls, List.nil_append]
  obtain ⟨_, ⟨tr, rfl⟩ | ⟨tr, eight⟩ | ⟨tr, rfl, _⟩⟩ := wiresOf_ok_cases accepted
  · simp only [busyAnswer, readBackOf, tr]
    have draws : drawLevels 8 s.env = [_, _, _, _, _, _, _, _] := rfl
    rw [callsOf_fourBit_read, (fourBit_read_answers draws s.params.latch .command).2]
    exact (busyFlag_byteOfNibbles _ _ _ _ _ _ _ _).trans (by simp [draws])
  · simp only [busyAnswer, readBackOf, tr]
    cases eight
    have draws : drawLevels 8 s.env = [_, _, _, _, _, _, _, _] := rfl
    rw [callsOf_eightBit_read, (eightBit_read_answers draws s.params.latch .command).2]
    exact (busyFlag_byteOfLevels _ _ _ _ _ _ _ _).trans (by simp [draws])
  · simp only [busyAnswer, readBackOf, tr]
    have draws : drawBytes 2 s.env = [_, _] := rfl
    rw [callsOf_bridge_read, (bridge_read_answers draws .command).2, levelsOfNibble_latchData, levelsOfNibble_latchData]
    exact (busyFlag_byteOfNibbles _ _ _ _ _ _ _ _).trans (by simp [lv])

/-! ## A round of the loop -/

theorem working_sendNow {s : State} (working : Working s) {c : Command} (completes : (s.sendNow c).fatal = none) :
    Working (s.sendNow c) := by
  obtain ⟨running, n, st, rest, hq⟩ := working
  obtain ⟨n', seq⟩ := sendNow_seq running hq c
  exact ⟨completes, n', st, rest, seq⟩

/-- A `send` before other actions. -/
theorem stays_send_push {s : State} (working : Working s) {c : Command} (ms : List Micro)
    (completes : (s.sendNow c).fatal = none) :
    ∃ k, Stays (k + 1) (s.push (.send c :: ms)) ((s.sendNow c).push ms) := by
  have sends := sendNow_push s ms c
  have := stays_send (working_push working ms) (c := c) (by rw [sends]; exact completes)
  rwa [sends, push_push] at this

/-- A poll: the busy flag is read, then tested (R117). -/
theorem stays_poll {s : State} (working : Working s) (c : Command) (ms : List Micro)
    (completes : (s.sendNow busyRead).fatal = none) :
    ∃ k, Stays (k + 1) (s.push (.waitIdle c :: ms))
      ((s.sendNow busyRead).push (pollActions (s.sendNow busyRead) c ++ ms)) := by
  have expands : (s.push ms).micro (.waitIdle c) = s.push (.send busyRead :: .pollTest c :: ms) :=
    push_push s ms [.send busyRead, .pollTest c]
  have first := stays_push_cons working (.waitIdle c) ms (by rw [expands, stageOf_push])
  obtain ⟨k, reads⟩ := stays_send_push working (.pollTest c :: ms) completes
  have tested : ((s.sendNow busyRead).push ms).micro (.pollTest c)
      = (s.sendNow busyRead).push (pollActions (s.sendNow busyRead) c ++ ms) := push_push _ ms _
  have last := stays_push_cons (working_sendNow working completes) (.pollTest c) ms (by rw [tested, stageOf_push])
  rw [expands] at first
  rw [tested] at last
  exact ⟨1 + k + 1, by rw [show 1 + k + 1 + 1 = 1 + (k + 1) + 1 by omega]; exact stays_trans (stays_trans first reads) last⟩

/-- An event that does not fail. -/
theorem stays_event {s : State} (working : Working s) (c : Call) (ms : List Micro) (succeeds : s.env.failIn ≠ some 0) :
    Stays 1 (s.push (event c :: ms)) ((s.afterCalls [c]).push ms) := by
  have done : s.wire (.call c) = s.afterCalls [c] := by
    obtain ⟨fails, _⟩ | ⟨_, done⟩ := perform_cases s c
    · exact absurd fails succeeds
    · exact done.trans (complete_eq_afterCalls s c)
  have := stays_push_wire working (.call c) ms
  rwa [done] at this

theorem working_afterCalls {s : State} (working : Working s) (cs : List Call) : Working (s.afterCalls cs) := by
  obtain ⟨running, n, st, rest, hq⟩ := working
  exact ⟨running, n + cs.length, st, rest, by rw [State.afterCalls, hq]; rfl⟩

theorem sendNow_of_failIn_none {s : State} {c : Command} {ws : List Wire} (running : s.fatal = none)
    (accepted : wiresOf s c = .ok ws) (never : s.env.failIn = none) : s.sendNow c = s.delivering c ws :=
  sendNow_of_allows running accepted (allows_of_failIn_none never _)

theorem delivering_failIn_none {s : State} {c : Command} {ws : List Wire} (never : s.env.failIn = none) :
    (s.delivering c ws).env.failIn = none := by
  show (envAfter (callsOf ws) s.env).failIn = none
  rw [envAfter_failIn, failAfter, never]
  rfl

/-- The state after a poll that found the controller busy, and the sleep after it (R117). -/
def State.polled (s : State) (ws : List Wire) : State :=
  (s.delivering busyRead ws).afterCalls [.delayUs s.pollInterval]

theorem polled_firstCommandSent {s : State} (tr : s.params.transport = .i2cBridge) (ws : List Wire) :
    (s.polled ws).X.firstCommandSent = true := by
  simp [State.polled, State.afterCalls, State.delivering, State.closed, firstSentAfter, tr]

/-- A poll that finds the controller busy sleeps and polls again. -/
theorem stays_busy_round {s : State} (working : Working s) (c : Command) (ms : List Micro) {ws : List Wire}
    (accepted : wiresOf s busyRead = .ok ws) (never : s.env.failIn = none) (busy : busyAnswer s.params s.env = true) :
    ∃ k, Stays k (s.push (.waitIdle c :: ms)) ((s.polled ws).push (.waitIdle c :: ms)) := by
  have sends := sendNow_of_failIn_none working.1 accepted never
  obtain ⟨k, polls⟩ := stays_poll working c ms (by rw [sends]; exact working.1)
  have working' := working_sendNow working (c := busyRead) (by rw [sends]; exact working.1)
  rw [sends] at polls working'
  rw [pollActions, busyFlag_delivering accepted, busy, if_pos rfl] at polls
  have sleeps := stays_event working' (.delayUs s.pollInterval) (.waitIdle c :: ms)
    (by rw [delivering_failIn_none never]; exact (Option.some_ne_none 0).symm)
  exact ⟨_, stays_trans polls sleeps⟩

theorem wiresOf_busyRead {s : State} (bootstrapped : s.params.transport = .i2cBridge → s.X.firstCommandSent = true) :
    ∃ ws, wiresOf s busyRead = .ok ws := by
  cases tr : s.params.transport with
  | parallelFourBit => exact ⟨fourBitWires busyRead, by simp [wiresOf, tr, busyRead, readCommand, Command.wellFormed]⟩
  | parallelEightBit =>
    exact ⟨prologue busyRead ++ getByte ++ [.ret busyRead .byte],
      by simp [wiresOf, tr, busyRead, readCommand, Command.wellFormed, eightBitWires]⟩
  | i2cBridge => exact ⟨bridgeTransfer s busyRead, wiresOf_bridge tr rfl (.inl (bootstrapped tr)) rfl⟩

/-- What is listed for the polls to come: the first is answered busy, and the others are there after it. -/
theorem answersBusy_succ {s : State} {n : Nat} {ws : List Wire} (accepted : wiresOf s busyRead = .ok ws)
    (answers : AnswersBusy s (n + 1)) : busyAnswer s.params s.env = true ∧ AnswersBusy (s.polled ws) n := by
  have env : (s.polled ws).env = (envAfter (callsOf ws) s.env).afterEvent := rfl
  have params : (s.polled ws).params = s.params := rfl
  rw [envAfter_eq] at env
  unfold AnswersBusy at answers ⊢
  rw [env, params]
  obtain ⟨_, ⟨tr, rfl⟩ | ⟨tr, eight⟩ | ⟨tr, rfl, _⟩⟩ := wiresOf_ok_cases accepted
  · simp only [tr] at answers ⊢
    refine ⟨?_, fun j below => ?_⟩
    · simp [busyAnswer, tr, drawLevels_of_listed (answers 0 (by omega)) (show 8 * 0 + 3 < 8 by omega)]
    · show (s.env.levels.drop 8)[8 * j + 3]? = _
      rw [List.getElem?_drop, ← answers (j + 1) (by omega)]
      congr 1
      omega
  · simp only [tr] at answers ⊢
    cases eight
    refine ⟨?_, fun j below => ?_⟩
    · simp [busyAnswer, tr, drawLevels_of_listed (answers 0 (by omega)) (show 8 * 0 + 7 < 8 by omega)]
    · show (s.env.levels.drop 8)[8 * j + 7]? = _
      rw [List.getElem?_drop, ← answers (j + 1) (by omega)]
      congr 1
      omega
  · simp only [tr] at answers ⊢
    obtain ⟨_, listed⟩ := answers
    refine ⟨?_, ?_, fun j below => ?_⟩
    · obtain ⟨b, first, busy⟩ := listed 0 (by omega)
      simp only [busyAnswer, tr, nextByte_of_listed first, busy]
    · exact polled_firstCommandSent tr _
    · obtain ⟨b, next, busy⟩ := listed (j + 1) (by omega)
      refine ⟨b, ?_, busy⟩
      show (s.env.bytes.drop 2)[2 * j]? = _
      rw [List.getElem?_drop, ← next]
      congr 1
      omega

theorem countP_eventsOf_bus {cs : List Call} (bus : ∀ call ∈ cs, isBusCall call = true) (e : Env) (d : Nat) :
    (eventsOf cs e).countP (fun x => decide (x.call = .delayUs d)) = 0 := by
  induction cs generalizing e with
  | nil => rfl
  | cons c cs ih =>
    obtain ⟨first, rest⟩ := List.forall_mem_cons.mp bus
    rw [eventsOf, List.countP_cons, ih rest]
    cases c <;> first | rfl | cases first

/-- However many polls are answered busy, as many busy reads and sleeps happen (R117, R217). -/
theorem stays_busy_rounds {s : State} (working : Working s) (c : Command) (ms : List Micro) (n : Nat)
    (bootstrapped : s.params.transport = .i2cBridge → s.X.firstCommandSent = true) (answers : AnswersBusy s n)
    (never : s.env.failIn = none) :
    ∃ k t, Stays k (s.push (.waitIdle c :: ms)) (t.push (.waitIdle c :: ms)) ∧ Working t ∧ t.S = s.S
      ∧ t.delivered = s.delivered ++ List.replicate n busyRead
      ∧ ∃ es, t.trace = s.trace ++ es ∧ es.countP (fun e => decide (e.call = .delayUs s.pollInterval)) = n := by
  induction n generalizing s with
  | zero => exact ⟨0, s, .stay _, working, rfl, by simp, [], by simp, rfl⟩
  | succ n ih =>
    obtain ⟨ws, accepted⟩ := wiresOf_busyRead bootstrapped
    obtain ⟨busy, answers'⟩ := answersBusy_succ accepted answers
    obtain ⟨j, round⟩ := stays_busy_round working c ms accepted never busy
    have sends := sendNow_of_failIn_none working.1 accepted never
    have working' : Working (s.polled ws) := by
      have := working_sendNow working (c := busyRead) (by rw [sends]; exact working.1)
      rw [sends] at this
      exact working_afterCalls this _
    obtain ⟨k, t, rounds, ended, shadow, delivered, es, trace, count⟩ := ih working'
      (fun tr => polled_firstCommandSent (s := s) tr ws)
      answers' (by
        show ((s.delivering busyRead ws).env.failIn).map (· - 1) = none
        rw [delivering_failIn_none never]
        rfl)
    refine ⟨j + k, t, stays_trans round rounds, ended, shadow, ?_,
      eventsOf (callsOf ws) s.env ++ { call := .delayUs s.pollInterval, answer := .done } :: es, ?_, ?_⟩
    · rw [delivered, List.replicate_succ, List.append_cons]
      rfl
    · rw [trace]
      show s.trace ++ eventsOf (callsOf ws) s.env ++ [_] ++ es = _
      simp [Env.answer]
    · rw [List.countP_append, List.countP_cons, countP_eventsOf_bus (isBusCall_of_mem_callsOf accepted)]
      have count : es.countP (fun e => decide (e.call = .delayUs s.pollInterval)) = n := count
      simpa using count

/-- Settles O42: as many rounds as are answered busy. -/
theorem busyPollNeverTimesOut : Obligations.BusyPollNeverTimesOut := by
  intro s c rs n asked answers never
  have ⟨running, _, _⟩ := asked
  have begins : step s = .next (begun s rs s.S [.waitIdle c, .returnSent]) := step_of_asked_begun asked rfl
  have working : Working (begun s rs s.S []) := ⟨running, 0, none, _, rfl⟩
  have bootstrapped : s.params.transport = .i2cBridge → s.X.firstCommandSent = true := by
    intro tr
    unfold AnswersBusy at answers
    simp only [tr] at answers
    exact answers.1
  obtain ⟨k, t, rounds, ⟨running', n', st, rest, hq⟩, shadow, delivered, es, trace, count⟩ :=
    stays_busy_rounds working c [.returnSent] n bootstrapped answers never
  have seq : (t.push [.waitIdle c, .returnSent]).seq = .running n' st (.waitIdle c :: .returnSent :: rest) := by
    rw [push_seq, hq]; rfl
  refine ⟨k + 1, t.push [.waitIdle c, .returnSent], runs_succ begins
    (runs_of_goes_unsettled (goes_of_stays rounds) (.inr ⟨n', st, _, _, seq⟩)), running', by rw [seq]; exact Seq.noConfusion,
    delivered, ?_, shadow⟩
  show (t.trace.drop s.trace.length).countP _ = n
  rw [trace]
  show ((s.trace ++ es).drop s.trace.length).countP _ = n
  rw [List.drop_left]
  exact count

end Sys2Proof.Machine
end

section
/-! The Commands a transport takes once the bridge is bootstrapped (R100, R105, R109, R110), and the endless blink that sends
them (R183, R217). -/
namespace Sys2Proof.Machine
open Sys2Proof.Claim

/-- The transport takes the Command, once the bootstrap is done over the bridge; and the bootstrap before. -/
def Takes (p : Params) (c : Command) : Prop :=
  ∀ s : State, s.params = p → (p.transport = .i2cBridge → s.X.firstCommandSent = true ∨ c = bootstrap) →
    ∃ ws, wiresOf s c = .ok ws

/-- A well-formed Command is taken, unless it is a nibble on eight lines or an 8-bit Function set over the bridge. -/
theorem takes_of {p : Params} {c : Command} (wf : c.wellFormed = true)
    (whole : p.transport = .parallelEightBit → ∀ n, c.data ≠ .bit4 n)
    (fourBit : p.transport = .i2cBridge → isEightBitRequest c = false) : Takes p c := by
  rintro s rfl bootstrapped
  cases tr : s.params.transport with
  | parallelFourBit => exact ⟨_, by rw [wiresOf, if_pos wf, tr]⟩
  | parallelEightBit =>
    have eight : ∃ ws, eightBitWires c = .ok ws := by
      obtain ⟨rs, rw, _ | n | b⟩ := c
      · exact ⟨_, rfl⟩
      · exact absurd rfl (whole tr n)
      · exact ⟨_, rfl⟩
    obtain ⟨ws, eight⟩ := eight
    exact ⟨ws, by rw [wiresOf, if_pos wf, tr]; exact eight⟩
  | i2cBridge => exact ⟨_, wiresOf_bridge tr wf (bootstrapped tr) (fourBit tr)⟩

theorem takes_busyRead (p : Params) : Takes p busyRead :=
  takes_of rfl (fun _ _ => Payload.noConfusion) fun _ => rfl

theorem takes_bootstrap {p : Params} (notEight : p.transport ≠ .parallelEightBit) : Takes p bootstrap :=
  takes_of rfl (fun tr => absurd tr notEight) fun _ => rfl

theorem takes_instruction {p : Params} {b : Byte}
    (fourBit : p.transport = .i2cBridge → ¬ (0x30 ≤ b.toNat ∧ b.toNat < 0x40)) : Takes p (instruction b) :=
  takes_of rfl (fun _ _ => Payload.noConfusion) fun tr => by
    rw [← Bool.not_eq_true, isEightBitRequest_instruction]
    exact fourBit tr

theorem takes_dataWrite (p : Params) (b : Byte) : Takes p (dataWrite b) :=
  takes_of rfl (fun _ _ => Payload.noConfusion) fun _ => rfl

theorem takes_dataRead (p : Params) : Takes p (readCommand .data) :=
  takes_of rfl (fun _ _ => Payload.noConfusion) fun _ => rfl

theorem displayControlByte_lt (S : DisplayState) : (displayControlByte S).toNat < 0x10 := by
  unfold displayControlByte
  cases S.displayOn <;> cases S.cursorOn <;> cases S.cursorBlink <;> decide

theorem entryModeByte_lt (S : DisplayState) : (entryModeByte S).toNat < 0x10 := by
  unfold entryModeByte
  cases S.direction <;> cases S.shiftType <;> decide

theorem shiftByte_lt (shift : ShiftType) (dir : Direction) : (shiftByte shift dir).toNat < 0x20 := by
  cases shift <;> cases dir <;> decide

theorem functionSetByte_lt {S : DisplayState} (fourBit : S.dataWidth = .bit4) : (functionSetByte S).toNat < 0x30 := by
  unfold functionSetByte
  rw [fourBit]
  cases S.lineMode <;> cases S.font <;> decide

theorem takes_displayControl (p : Params) (S : DisplayState) : Takes p (instruction (displayControlByte S)) :=
  takes_instruction fun _ => by have := displayControlByte_lt S; omega

theorem takes_entryMode (p : Params) (S : DisplayState) : Takes p (instruction (entryModeByte S)) :=
  takes_instruction fun _ => by have := entryModeByte_lt S; omega

theorem takes_shift (p : Params) (shift : ShiftType) (dir : Direction) : Takes p (instruction (shiftByte shift dir)) :=
  takes_instruction fun _ => by have := shiftByte_lt shift dir; omega

theorem takes_functionSet {p : Params} {S : DisplayState} (fourBit : p.transport = .i2cBridge → S.dataWidth = .bit4) :
    Takes p (instruction (functionSetByte S)) :=
  takes_instruction fun tr => by have := functionSetByte_lt (fourBit tr); omega

/-! ## The endless blink -/

/-- The actions of a blink, with Commands that the transport takes. -/
def InBlink (p : Params) : Micro → Prop
  | .wire _ => True
  | .send c => Takes p c
  | .waitIdle c => Takes p c
  | .pollTest c => Takes p c
  | .toggle => True
  | .blink _ _ => True
  | _ => False

/-- Nothing stands in the way of the Commands: the block runs, no event fails, the bridge is bootstrapped. -/
def Unhindered (s : State) : Prop :=
  s.fatal = none ∧ s.env.failIn = none ∧ (s.params.transport = .i2cBridge → s.X.firstCommandSent = true)

theorem unhindered_afterCalls {s : State} (free : Unhindered s) (cs : List Call) : Unhindered (s.afterCalls cs) := by
  obtain ⟨running, never, bootstrapped⟩ := free
  refine ⟨running, ?_, bootstrapped⟩
  show (envAfter cs s.env).failIn = none
  rw [envAfter_failIn, failAfter, never]
  rfl

theorem unhindered_wire {s : State} (free : Unhindered s) (w : Wire) : Unhindered (s.wire w) := by
  cases w with
  | call c =>
    obtain ⟨fails, _⟩ | ⟨_, done⟩ := perform_cases s c
    · rw [free.2.1] at fails
      cases fails
    · rw [State.wire, done, complete_eq_afterCalls]
      exact unhindered_afterCalls free [c]
  | sentFirst => exact ⟨free.1, free.2.1, fun _ => rfl⟩
  | ret c r => exact free

theorem inBlink_pollActions {s : State} {c : Command} (taken : Takes s.params c) :
    ∀ m ∈ pollActions s c, InBlink s.params m := by
  unfold pollActions
  split
  · exact List.forall_mem_cons.mpr ⟨trivial, List.forall_mem_singleton.mpr taken⟩
  · exact List.forall_mem_singleton.mpr taken

theorem inBlink_blinkActions (p : Params) (left : Option Nat) (interval : Nat) :
    ∀ m ∈ blinkActions left interval, InBlink p m := by
  have round (left : Option Nat) : ∀ m ∈ [event (.delayUs interval), .toggle, .blink left interval], InBlink p m := by
    simp [event, InBlink]
  rcases left with _ | _ | n
  · exact round none
  · exact List.forall_mem_nil _
  · exact round (some n)

/-- A toggle assigns the shadow and sends its Display on/off byte (R143, R183). -/
theorem micro_toggle (s : State) :
    ∃ S, s.micro .toggle = (s.assign S).push [.waitIdle (instruction (displayControlByte S))] := by
  refine ⟨{ s.S with displayOn := toggled s.S.displayOn }, ?_⟩
  simp only [State.micro, State.begin, startOp, startSetDisplayOn_eq, assignThenSend]
  rfl

/-- An action of a blink that nothing stands in the way of does not halt the block and expands into actions of a blink. -/
theorem micro_inBlink {s : State} {m : Micro} (free : Unhindered s) (blinking : InBlink s.params m) :
    ∃ u ms, s.micro m = u.push ms ∧ Unhindered u ∧ u.params = s.params ∧ (u.seq = s.seq ∨ u.seq = s.seq.afterEvent)
      ∧ ∀ x ∈ ms, InBlink s.params x := by
  cases m with
  | wire w =>
    refine ⟨s.wire w, [], (push_nil _).symm, unhindered_wire free w, wire_params s w, ?_, List.forall_mem_nil _⟩
    obtain ⟨_, seq⟩ | ⟨_, _, seq⟩ := wire_trace_seq s w
    · exact .inl seq
    · exact .inr seq
  | send c =>
    obtain ⟨ws, accepted⟩ := blinking s rfl fun tr => .inl (free.2.2 tr)
    refine ⟨{ s with rx := [] }, ws.map .wire, by simp only [State.micro, accepted], free, rfl, .inl rfl, ?_⟩
    rw [List.forall_mem_map]
    exact fun _ _ => trivial
  | waitIdle c =>
    exact ⟨s, [.send busyRead, .pollTest c], rfl, free, rfl, .inl rfl,
      List.forall_mem_cons.mpr ⟨takes_busyRead s.params, List.forall_mem_singleton.mpr blinking⟩⟩
  | pollTest c => exact ⟨s, _, rfl, free, rfl, .inl rfl, inBlink_pollActions blinking⟩
  | toggle =>
    obtain ⟨S, begins⟩ := micro_toggle s
    exact ⟨s.assign S, _, begins, free, rfl, .inl rfl, List.forall_mem_singleton.mpr (takes_displayControl s.params S)⟩
  | blink left interval => exact ⟨s, _, rfl, free, rfl, .inl rfl, inBlink_blinkActions s.params left interval⟩
  | _ => cases blinking

/-- A block that blinks on, with nothing in its way. -/
def BlinksOn (s : State) (interval : Nat) : Prop :=
  Unhindered s ∧ s.Blinks interval ∧ ∀ n st rest, s.seq = .running n st rest → ∀ m ∈ rest, InBlink s.params m

theorem step_blinksOn {s : State} {interval : Nat} (goesOn : BlinksOn s interval) :
    ∃ t, step s = .next t ∧ BlinksOn t interval := by
  obtain ⟨free, blinks, harmless⟩ := goesOn
  obtain ⟨n, st, before, hq⟩ := blinks free.1
  obtain ⟨m, ms, left⟩ := List.exists_cons_of_ne_nil (List.append_ne_nil_of_right_ne_nil before (List.cons_ne_nil (.blink none interval) []))
  rw [left] at hq
  obtain ⟨first, rest⟩ := List.forall_mem_cons.mp (harmless n st _ hq)
  have next := step_running free.1 hq
  have blinks' := blinks_step next blinks
  obtain ⟨u, ns, becomes, free', params, seq, pushed⟩ :=
    micro_inBlink (s := { s with seq := .running n st ms }) free first
  rw [becomes] at next blinks'
  have after : ∀ n' st' rest', (u.push ns).seq = .running n' st' rest' → ∀ x ∈ rest', InBlink s.params x := by
    intro n' st' rest' hq'
    have same : rest' = ns ++ ms := by
      obtain seq | seq := seq <;> (rw [push_seq, seq] at hq'; cases hq'; rfl)
    rw [same]
    exact List.forall_mem_append.mpr ⟨pushed, rest⟩
  refine ⟨_, next, ⟨by rw [settle_fatal]; exact free'.1, by rw [settle_env]; exact free'.2.1, ?_⟩, blinks', ?_⟩
  · rw [settle_params, settle_X]
    exact free'.2.2
  · intro n' st' rest' hq'
    rw [settle_params, push_params, params]
    obtain same | ⟨idle, _⟩ := settle_seq (u.push ns)
    · exact after n' st' rest' (same ▸ hq')
    · rw [hq'] at idle
      cases idle

/-- Settles O43: no step of the blink halts the block or ends it. -/
theorem endlessBlinkNeverCompletes : Obligations.EndlessBlinkNeverCompletes := by
  intro s interval rs k asked canSend never
  have ⟨running, _, _⟩ := asked
  have begins : step s = .next (begun s rs s.S [.blink none interval]) := step_of_asked_begun asked rfl
  have start : BlinksOn (begun s rs s.S [.blink none interval]) interval := by
    refine ⟨⟨running, never, fun tr => (canSend tr).1⟩, fun _ => ⟨0, none, [], rfl⟩, fun n st rest hq => ?_⟩
    cases hq
    exact List.forall_mem_singleton.mpr trivial
  have goesOn : ∀ k u, BlinksOn u interval → ∃ t, Runs k u t ∧ BlinksOn t interval := by
    intro k
    induction k with
    | zero => exact fun u blinks => ⟨u, rfl, blinks⟩
    | succ k ih =>
      intro u blinks
      obtain ⟨v, next, blinks'⟩ := step_blinksOn blinks
      obtain ⟨t, runs, blinks''⟩ := ih v blinks'
      exact ⟨t, runs_succ next runs, blinks''⟩
  obtain ⟨t, runs, ⟨running', _, _⟩, blinks, _⟩ := goesOn k _ start
  refine ⟨t, runs_succ begins runs, running', fun idle => ?_⟩
  obtain ⟨n, st, before, hq⟩ := blinks running'
  rw [hq] at idle
  cases idle

end Sys2Proof.Machine
end

section
/-! What happens between two states of an operation in progress: the calls made and the Commands delivered (R33, R100). -/
namespace Sys2Proof.Machine
open Sys2Proof.Claim

/-- The Commands among some that are no busy-flag reads. -/
def notReads (cs : List Command) : List Command := cs.filter fun c => !decide (c = busyRead)

theorem notReads_append (cs ds : List Command) : notReads (cs ++ ds) = notReads cs ++ notReads ds := List.filter_append ..

theorem notReads_singleton {c : Command} (other : c ≠ busyRead) : notReads [c] = [c] :=
  List.filter_cons_of_pos (by simp [other])

/-- From `s`, with the same parameters and bridge, the block has come to `u`: the calls it made, the Commands it sent (busy
reads left out), and the actions left, which are the same. -/
structure Advances (s : State) (calls : List Call) (sent : List Command) (u : State) : Prop where
  running : u.fatal = none
  seq : ∃ n n' st st' rest, s.seq = .running n st rest ∧ u.seq = .running n' st' rest
  params : u.params = s.params
  poll : u.pollInterval = s.pollInterval
  addr : u.X.addr = s.X.addr
  backlight : u.X.backlight = s.X.backlight
  bootstrapped : s.X.firstCommandSent = true → u.X.firstCommandSent = true
  firstSent : s.params.transport = .i2cBridge → sent ≠ [] → u.X.firstCommandSent = true
  trace : ∃ es, u.trace = s.trace ++ es ∧ es.map Event.call = calls
  delivered : ∃ cs, u.delivered = s.delivered ++ cs ∧ notReads cs = sent

theorem Advances.working {s u : State} {calls : List Call} {sent : List Command} (goesOn : Advances s calls sent u) :
    Working u := by
  obtain ⟨n, n', st, st', rest, _, hq⟩ := goesOn.seq
  exact ⟨goesOn.running, n', st', rest, hq⟩

/-- A change of the shadow, the result or the named step. -/
theorem advances_of_silent {s u : State} {n : Nat} {st : Option InitStage} {rest : List Micro} (working : Working s)
    (hq : u.seq = .running n st rest) (same : ∃ n st, s.seq = .running n st rest)
    (frame : u = { s with S := u.S, result := u.result, rx := u.rx, seq := u.seq }) : Advances s [] [] u := by
  obtain ⟨n', st', hq'⟩ := same
  refine ⟨?_, ⟨n', n, st', st, rest, hq', hq⟩, ?_, ?_, ?_, ?_, ?_, fun _ some => absurd rfl some, ⟨[], ?_, rfl⟩,
    ⟨[], ?_, rfl⟩⟩ <;> rw [frame]
  · exact working.1
  · exact id
  · exact (List.append_nil _).symm
  · exact (List.append_nil _).symm

theorem advances_refl {s : State} (working : Working s) : Advances s [] [] s := by
  have ⟨_, n, st, rest, hq⟩ := working
  exact advances_of_silent working hq ⟨n, st, hq⟩ rfl

theorem advances_trans {s t u : State} {calls calls' : List Call} {sent sent' : List Command}
    (first : Advances s calls sent t) (second : Advances t calls' sent' u) :
    Advances s (calls ++ calls') (sent ++ sent') u := by
  obtain ⟨n, _, st, _, rest, hq, hq'⟩ := first.seq
  obtain ⟨_, n'', _, st'', rest', hq'', hq'''⟩ := second.seq
  cases hq'.symm.trans hq''
  obtain ⟨es, trace, calls⟩ := first.trace
  obtain ⟨es', trace', calls'⟩ := second.trace
  obtain ⟨cs, delivered, listed⟩ := first.delivered
  obtain ⟨cs', delivered', listed'⟩ := second.delivered
  refine ⟨second.running, ⟨n, n'', st, st'', rest, hq, hq'''⟩, second.params.trans first.params,
    second.poll.trans first.poll, second.addr.trans first.addr, second.backlight.trans first.backlight,
    second.bootstrapped ∘ first.bootstrapped, fun tr some => ?_,
    ⟨es ++ es', by rw [trace', trace, List.append_assoc], by rw [List.map_append, calls, calls']⟩,
    ⟨cs ++ cs', by rw [delivered', delivered, List.append_assoc], by rw [notReads_append, listed, listed']⟩⟩
  cases sent' with
  | nil => exact second.bootstrapped (first.firstSent tr (by rwa [List.append_nil] at some))
  | cons c cs => exact second.firstSent (by rw [first.params]; exact tr) (List.cons_ne_nil c cs)

theorem advances_event {s : State} (working : Working s) (c : Call) : Advances s [c] [] (s.afterCalls [c]) := by
  obtain ⟨running, n, st, rest, hq⟩ := working
  exact ⟨running, ⟨n, n + 1, st, st, rest, hq, by rw [State.afterCalls, hq]; rfl⟩, rfl, rfl, rfl, rfl, id, fun _ some => absurd rfl some,
    ⟨_, rfl, eventsOf_map_call [c] s.env⟩, ⟨[], (List.append_nil _).symm, rfl⟩⟩

/-! ## The calls of a `send` (R104 to R107, R112, R113) -/

/-- A wire sequence depends on the parameters and the bridge's own state only. -/
theorem wiresOf_congr {s u : State} (params : u.params = s.params) (addr : u.X.addr = s.X.addr)
    (backlight : u.X.backlight = s.X.backlight) (first : u.X.firstCommandSent = s.X.firstCommandSent) (c : Command) :
    wiresOf u c = wiresOf s c := by
  have transfer : bridgeTransfer u c = bridgeTransfer s c := by
    unfold bridgeTransfer writeNibble readNibble bridgeByte
    rw [params, addr, backlight]
  have check : requireBootstrap u.X c = requireBootstrap s.X c := by rw [requireBootstrap, first, requireBootstrap]
  rw [wiresOf, wiresOf, bridgeWires, bridgeWires, params, transfer, check]

/-- The same parameters, poll interval and bridge: what the calls of a timeline depend on. -/
structure SameBus (s u : State) : Prop where
  params : u.params = s.params
  poll : u.pollInterval = s.pollInterval
  addr : u.X.addr = s.X.addr
  backlight : u.X.backlight = s.X.backlight

theorem sendCalls_congr {s u : State} (same : SameBus s u) (c : Command) : sendCalls u c = sendCalls s c := by
  have wires := wiresOf_congr (s := { s with X := { s.X with firstCommandSent := true } })
    (u := { u with X := { u.X with firstCommandSent := true } }) same.params same.addr same.backlight rfl c
  rw [sendCalls, sendCalls, wires]

theorem pollCalls_congr {s u : State} (same : SameBus s u) (n : Nat) : pollCalls u n = pollCalls s n := by
  rw [pollCalls, pollCalls, sendCalls_congr same, same.poll]

/-- An accepted Command makes the calls of its `send`. -/
theorem sendCalls_of_accepted {s : State} {c : Command} {ws : List Wire} (accepted : wiresOf s c = .ok ws) :
    sendCalls s c = callsOf ws := by
  have again : wiresOf { s with X := { s.X with firstCommandSent := true } } c = .ok ws := by
    obtain ⟨wf, ⟨tr, rfl⟩ | ⟨tr, eight⟩ | ⟨tr, rfl, _, fourBit⟩⟩ := wiresOf_ok_cases accepted
    · rw [wiresOf, if_pos wf, tr]
    · rw [wiresOf, if_pos wf, tr]; exact eight
    · exact wiresOf_bridge tr wf (.inl rfl) fourBit
  rw [sendCalls, again]

theorem advances_delivering {s : State} (working : Working s) {c : Command} {ws : List Wire}
    (accepted : wiresOf s c = .ok ws) : Advances s (sendCalls s c) (notReads [c]) (s.delivering c ws) := by
  obtain ⟨running, n, st, rest, hq⟩ := working
  refine ⟨running, ⟨n, n + (callsOf ws).length, st, st, rest, hq, ?_⟩, rfl, rfl, rfl, rfl, fun first => ?_, fun tr _ => ?_,
    ⟨eventsOf (callsOf ws) s.env, rfl, ?_⟩, ⟨[c], rfl, rfl⟩⟩
  · rw [State.delivering, State.closed, State.afterCalls, hq]; rfl
  · rw [State.delivering, State.closed, State.afterCalls, firstSentAfter]
    dsimp only
    split <;> first | exact first | rfl
  · simp only [State.delivering, State.closed, State.afterCalls, firstSentAfter, tr]
  · rw [eventsOf_map_call, sendCalls_of_accepted accepted]

/-- A `send` that completes, from its outcome. -/
theorem advances_send {s : State} (working : Working s) {c : Command} (completes : (s.sendNow c).fatal = none) :
    Advances s (sendCalls s c) (notReads [c]) (s.sendNow c) := by
  obtain ⟨e, _, raises⟩ | ⟨ws, k, _, _, _, stops⟩ | ⟨ws, accepted, _, sends⟩ := sendNow_outcome working.1 c
  · rw [raises] at completes; cases completes
  · rw [stops] at completes; cases completes
  · rw [sends]
    exact advances_delivering working accepted

theorem Advances.sameBus {s u : State} {calls : List Call} {sent : List Command} (goesOn : Advances s calls sent u) :
    SameBus s u := ⟨goesOn.params, goesOn.poll, goesOn.addr, goesOn.backlight⟩

/-- A `send` that completes has delivered its Command (R100). -/
theorem sendNow_delivered {s : State} {c : Command} (running : s.fatal = none) (completes : (s.sendNow c).fatal = none) :
    (s.sendNow c).delivered = s.delivered ++ [c] := by
  obtain ⟨e, _, raises⟩ | ⟨ws, k, _, _, _, stops⟩ | ⟨ws, _, _, sends⟩ := sendNow_outcome running c
  · rw [raises] at completes; cases completes
  · rw [stops] at completes; cases completes
  · rw [sends]
    rfl

/-! ## Timelines -/

theorem follows_append {s : State} {items more : List Item} {calls calls' : List Call} (first : Follows s items calls)
    (second : Follows s more calls') : Follows s (items ++ more) (calls ++ calls') := by
  induction items generalizing calls with
  | nil => cases first; exact second
  | cons item items ih =>
    cases item with
    | event c =>
      obtain ⟨rest, rfl, first⟩ := first
      exact ⟨rest ++ calls', rfl, ih first⟩
    | plain c =>
      obtain ⟨rest, rfl, first⟩ := first
      exact ⟨rest ++ calls', List.append_assoc .., ih first⟩
    | polled c =>
      obtain ⟨n, rest, rfl, first⟩ := first
      exact ⟨n, rest ++ calls', by simp only [List.append_assoc], ih first⟩

theorem follows_congr {s u : State} (same : SameBus s u) {items : List Item} {calls : List Call}
    (follows : Follows u items calls) : Follows s items calls := by
  induction items generalizing calls with
  | nil => exact follows
  | cons item items ih =>
    cases item with
    | event c =>
      obtain ⟨rest, rfl, follows⟩ := follows
      exact ⟨rest, rfl, ih follows⟩
    | plain c =>
      obtain ⟨rest, rfl, follows⟩ := follows
      exact ⟨rest, by rw [sendCalls_congr same], ih follows⟩
    | polled c =>
      obtain ⟨n, rest, rfl, follows⟩ := follows
      exact ⟨n, rest, by rw [sendCalls_congr same, pollCalls_congr same], ih follows⟩

theorem commandsOf_append (items more : List Item) : commandsOf (items ++ more) = commandsOf items ++ commandsOf more := by
  induction items with
  | nil => rfl
  | cons item items ih => cases item <;> simp [commandsOf, ih]

/-- From `s` the block has come to `u` along a timeline, with another shadow. -/
structure Reaches (s : State) (items : List Item) (S : DisplayState) (u : State) : Prop where
  advances : ∃ calls, Follows s items calls ∧ Advances s calls (commandsOf items) u
  shadow : u.S = S

theorem reaches_trans {s t u : State} {items more : List Item} {S S' : DisplayState} (first : Reaches s items S t)
    (second : Reaches t more S' u) : Reaches s (items ++ more) S' u := by
  obtain ⟨⟨calls, follows, advances⟩, _⟩ := first
  obtain ⟨⟨calls', follows', advances'⟩, shadow⟩ := second
  exact ⟨⟨calls ++ calls', follows_append follows (follows_congr advances.sameBus follows'),
    by rw [commandsOf_append]; exact advances_trans advances advances'⟩, shadow⟩

theorem Reaches.working {s u : State} {items : List Item} {S : DisplayState} (reaches : Reaches s items S u) :
    Working u := by
  obtain ⟨_, _, advances⟩ := reaches.advances
  exact advances.working

theorem Reaches.params {s u : State} {items : List Item} {S : DisplayState} (reaches : Reaches s items S u) :
    u.params = s.params := by
  obtain ⟨_, _, advances⟩ := reaches.advances
  exact advances.params

end Sys2Proof.Machine
end

section
/-! Scripts: what the actions of an operation do to the shadow and put on the interface, whatever is answered (R130). -/
namespace Sys2Proof.Machine
open Sys2Proof.Claim

/-- The start of an operation from a shadow: its assignments and its actions. -/
def Starts (p : Params) (S : DisplayState) (o : Op) (S' : DisplayState) (ms : List Micro) : Prop :=
  ∀ s : State, s.params = p → s.S = S → startOp o s = .ok (s.assign S', ms)

/-- A silent action from a shadow: its assignments and the actions it becomes. -/
def Expands (p : Params) (S : DisplayState) (m : Micro) (S' : DisplayState) (ms : List Micro) : Prop :=
  (∀ c, m ≠ .send c) ∧ ∀ s : State, s.params = p → s.S = S → ∃ r, s.micro m = ((s.assign S').returning r).push ms

/-- Actions from a shadow, the timeline they follow and the shadow they end with. -/
inductive Script (p : Params) : DisplayState → List Micro → List Item → DisplayState → Prop
  | done (S : DisplayState) : Script p S [] [] S
  | event {S S' : DisplayState} {ms : List Micro} {items : List Item} (c : Call) (noDraw : levelDraws [c] + byteDraws [c] = 0)
      (more : Script p S ms items S') :
      Script p S (event c :: ms) (.event c :: items) S'
  | plain {S S' : DisplayState} {ms : List Micro} {items : List Item} (c : Command) (other : c ≠ busyRead)
      (more : Script p S ms items S') : Script p S (.send c :: ms) (.plain c :: items) S'
  | polled {S S' : DisplayState} {ms : List Micro} {items : List Item} (c : Command) (other : c ≠ busyRead)
      (more : Script p S ms items S') : Script p S (.waitIdle c :: ms) (.polled c :: items) S'
  | silent {S S₁ S' : DisplayState} {m : Micro} {ns ms : List Micro} {items : List Item} (expands : Expands p S m S₁ ns)
      (more : Script p S₁ (ns ++ ms) items S') : Script p S (m :: ms) items S'

theorem script_append {p : Params} {S S₁ S₂ : DisplayState} {ms ns : List Micro} {items more : List Item}
    (first : Script p S ms items S₁) (second : Script p S₁ ns more S₂) : Script p S (ms ++ ns) (items ++ more) S₂ := by
  induction first with
  | done S => exact second
  | event c noDraw _ ih => exact .event c noDraw (ih second)
  | plain c other _ ih => exact .plain c other (ih second)
  | polled c other _ ih => exact .polled c other (ih second)
  | silent expands _ ih => exact .silent expands (by have := ih second; rwa [List.append_assoc] at this)

/-- A nested operation. -/
theorem expands_call {p : Params} {S S' : DisplayState} {o : Op} {ms : List Micro} (starts : Starts p S o S' ms) :
    Expands p S (.call o) S' ms := by
  refine ⟨fun _ => Micro.noConfusion, fun s params shadow => ⟨s.result, ?_⟩⟩
  show s.begin o = _
  rw [State.begin, starts s params shadow]
  rfl

theorem advances_silent {s : State} (working : Working s) (S : DisplayState) (r : Result) :
    Advances s [] [] ((s.assign S).returning r) := by
  have ⟨_, n, st, rest, hq⟩ := working
  exact advances_of_silent working hq ⟨n, st, hq⟩ rfl

/-! ## Runs that end -/

/-- A run to the end of an operation passes through every state its actions lead to, so none of them is halted. -/
theorem stays_through {j k : Nat} {s u t : State} (whole : Goes k s t) (ended : Ended t) (first : Stays j s u) :
    ∃ i, k = j + i ∧ Goes i u t :=
  goes_through whole ended (goes_of_stays first)

theorem event_succeeds {k : Nat} {s t : State} {c : Call} {ms : List Micro} (working : Working s)
    (whole : Goes k (s.push (event c :: ms)) t) (ended : Ended t) : s.env.failIn ≠ some 0 := by
  intro fails
  obtain ⟨_, failed⟩ | ⟨succeeds, _⟩ := perform_cases s c
  · obtain ⟨i, _, goes⟩ := stays_through whole ended (stays_push_wire working (.call c) ms)
    rw [State.wire, failed] at goes
    exact not_ended_of_halted goes (Option.some_ne_none _) ended
  · exact succeeds fails

theorem send_completes {k : Nat} {s t : State} {c : Command} {ms : List Micro} (working : Working s)
    (whole : Goes k (s.push (.send c :: ms)) t) (ended : Ended t) : (s.sendNow c).fatal = none := by
  by_contra halted
  have sends := sendNow_push s ms c
  obtain ⟨j, u, goes, same⟩ := (goes_send (working_push working ms) c).2 (by rw [sends]; exact halted)
  rw [push_push] at goes
  obtain ⟨i, _, rest⟩ := goes_through whole ended goes
  have fatal : u.fatal = (s.sendNow c).fatal := by
    have := congrArg State.fatal same
    rwa [sends] at this
  exact not_ended_of_halted rest (by rw [fatal]; exact halted) ended

/-- A poll loop that ends: some polls find the controller busy, and then the Command is sent from an idle one (R117). -/
theorem poll_ends {k : Nat} {s t : State} {c : Command} {ms : List Micro} (working : Working s)
    (whole : Goes k (s.push (.waitIdle c :: ms)) t) (ended : Ended t) :
    ∃ i n u, Stays i (s.push (.waitIdle c :: ms)) ((u.sendNow c).push ms) ∧ (u.sendNow c).fatal = none
      ∧ Advances s (pollCalls s n) [] u ∧ u.S = s.S ∧ u.result = s.result := by
  induction k using Nat.strong_induction_on generalizing s with
  | _ k ih =>
    have expands : (s.push ms).micro (.waitIdle c) = s.push (.send busyRead :: .pollTest c :: ms) :=
      push_push s ms [.send busyRead, .pollTest c]
    have first := stays_push_cons working (.waitIdle c) ms (by rw [expands, stageOf_push])
    rw [expands] at first
    obtain ⟨_, _, reads⟩ := stays_through whole ended first
    have completes := send_completes working reads ended
    obtain ⟨j, polls⟩ := stays_poll working c ms completes
    obtain ⟨i, length, rest⟩ := stays_through whole ended polls
    have polled := advances_send working completes
    rw [show notReads [busyRead] = [] from rfl] at polled
    unfold pollActions at polls rest
    cases busy : busyFlag (s.sendNow busyRead).sent with
    | true =>
      rw [busy, if_pos rfl] at polls rest
      have sleeps := stays_event polled.working (.delayUs (s.sendNow busyRead).pollInterval) (.waitIdle c :: ms)
        (event_succeeds polled.working rest ended)
      obtain ⟨i', length', rest'⟩ := stays_through rest ended sleeps
      have slept := advances_trans polled (advances_event polled.working (.delayUs (s.sendNow busyRead).pollInterval))
      obtain ⟨i'', n, u, stays, sent, advances, shadow, result⟩ := ih i' (by omega) slept.working rest'
      refine ⟨_, n + 1, u, stays_trans (stays_trans polls sleeps) stays, sent, ?_, ?_, ?_⟩
      · have := advances_trans slept advances
        rw [pollCalls_congr slept.sameBus] at this
        rw [show pollCalls s (n + 1) = sendCalls s busyRead ++ [.delayUs s.pollInterval] ++ pollCalls s n by
          simp [pollCalls, List.replicate_succ]]
        rw [sendNow_pollInterval] at this
        exact this
      · exact shadow.trans (sendNow_S s busyRead)
      · exact result.trans (sendNow_result s busyRead)
    | false =>
      rw [busy, if_neg Bool.false_ne_true] at polls rest
      have sent := send_completes polled.working rest ended
      obtain ⟨j', sends⟩ := stays_send_push polled.working ms sent
      exact ⟨_, 0, s.sendNow busyRead, stays_trans polls sends, sent, polled, sendNow_S s busyRead, sendNow_result s busyRead⟩

/-- Every run that ends does what the script of its first actions says. -/
theorem script_sound {p : Params} {S S' : DisplayState} {ms : List Micro} {items : List Item}
    (script : Script p S ms items S') {k : Nat} {s t : State} (working : Working s) (params : s.params = p)
    (shadow : s.S = S) (whole : Goes k (s.push ms) t) (ended : Ended t) :
    ∃ i j u, Stays i (s.push ms) u ∧ Goes j u t ∧ Reaches s items S' u := by
  induction script generalizing s k with
  | done S =>
    rw [push_nil] at whole ⊢
    exact ⟨0, k, s, .stay s, whole, ⟨⟨[], rfl, advances_refl working⟩, shadow⟩⟩
  | @event _ _ ms _ c _ _ ih =>
    have first := stays_event working c ms (event_succeeds working whole ended)
    obtain ⟨_, _, rest⟩ := stays_through whole ended first
    have advances := advances_event working c
    obtain ⟨i, j, u, stays, goes, reaches⟩ := ih advances.working params shadow rest
    exact ⟨_, j, u, stays_trans first stays, goes,
      reaches_trans (items := [.event c]) ⟨⟨[c], ⟨[], rfl, rfl⟩, advances⟩, shadow⟩ reaches⟩
  | plain c other more ih =>
    have completes := send_completes working whole ended
    obtain ⟨_, first⟩ := stays_send_push working _ completes
    obtain ⟨_, _, rest⟩ := stays_through whole ended first
    have advances := advances_send working completes
    rw [notReads_singleton other] at advances
    have shadow' := (sendNow_S s c).trans shadow
    obtain ⟨i, j, u, stays, goes, reaches⟩ := ih advances.working ((sendNow_params s c).trans params) shadow' rest
    exact ⟨_, j, u, stays_trans first stays, goes,
      reaches_trans (items := [.plain c]) ⟨⟨_, ⟨[], (List.append_nil _).symm, rfl⟩, advances⟩, shadow'⟩ reaches⟩
  | polled c other more ih =>
    obtain ⟨_, n, v, first, completes, polls, same, _⟩ := poll_ends working whole ended
    obtain ⟨_, _, rest⟩ := stays_through whole ended first
    have advances := advances_trans polls (advances_send polls.working completes)
    rw [notReads_singleton other, sendCalls_congr polls.sameBus] at advances
    have shadow' := ((sendNow_S v c).trans same).trans shadow
    obtain ⟨i, j, u, stays, goes, reaches⟩ := ih advances.working (advances.params.trans params) shadow' rest
    exact ⟨_, j, u, stays_trans first stays, goes,
      reaches_trans (items := [.polled c]) ⟨⟨_, ⟨n, [], (List.append_nil _).symm, rfl⟩, advances⟩, shadow'⟩ reaches⟩
  | @silent S S₁ S' m ns ms items expands more ih =>
    obtain ⟨r, becomes⟩ := expands.2 (s.push ms) params shadow
    have becomes : (s.push ms).micro m = ((s.assign S₁).returning r).push (ns ++ ms) :=
      becomes.trans (push_push ((s.assign S₁).returning r) ms ns)
    have first := stays_push_cons working m ms (by rw [becomes, stageOf_push]; rfl)
    rw [becomes] at first
    obtain ⟨_, _, rest⟩ := stays_through whole ended first
    have advances := advances_silent working S₁ r
    obtain ⟨i, j, u, stays, goes, reaches⟩ := ih advances.working params rfl rest
    exact ⟨_, j, u, stays_trans first stays, goes, reaches_trans (items := []) ⟨⟨[], rfl, advances⟩, rfl⟩ reaches⟩

end Sys2Proof.Machine
end

section
/-! Scripts run to their end when nothing stands in the way: no event fails, and every read finds low levels, so that each
poll finds the controller idle (R57, R117). -/
namespace Sys2Proof.Machine
open Sys2Proof.Claim

/-- An environment that fails no event and answers the next `n` reads with low levels. -/
structure Calm (n : Nat) (e : Env) : Prop where
  never : e.failIn = none
  levels : ∀ j < 8 * n, e.levels[j]? = some .low
  bytes : ∀ j < 2 * n, e.bytes[j]? = some 0

theorem calm_of_le {n m : Nat} {e : Env} (calm : Calm m e) (le : n ≤ m) : Calm n e :=
  ⟨calm.never, fun j below => calm.levels j (by omega), fun j below => calm.bytes j (by omega)⟩

/-- An environment that is calm for `n` reads. -/
def calmEnv (n : Nat) : Env :=
  { levels := List.replicate (8 * n) .low, bytes := List.replicate (2 * n) 0, failIn := none, draws := 0 }

theorem calm_calmEnv (n : Nat) : Calm n (calmEnv n) :=
  ⟨rfl, fun j below => by simp [calmEnv, below], fun j below => by simp [calmEnv, below]⟩

theorem calm_envAfter {n : Nat} {cs : List Call} {e : Env} (calm : Calm (n + 1) e) (levels : levelDraws cs ≤ 8)
    (bytes : byteDraws cs ≤ 2) : Calm n (envAfter cs e) := by
  rw [envAfter_eq]
  refine ⟨?_, fun j below => ?_, fun j below => ?_⟩
  · show failAfter cs.length e = none
    rw [failAfter, calm.never]
    rfl
  · rw [List.getElem?_drop]
    exact calm.levels _ (by omega)
  · rw [List.getElem?_drop]
    exact calm.bytes _ (by omega)

/-- A call that draws nothing. -/
theorem calm_afterCall {n : Nat} {c : Call} {e : Env} (calm : Calm n e) (noDraw : levelDraws [c] + byteDraws [c] = 0) :
    Calm n (envAfter [c] e) := by
  rw [envAfter_eq, show levelDraws [c] = 0 by omega, show byteDraws [c] = 0 by omega]
  refine ⟨?_, calm.levels, calm.bytes⟩
  show failAfter _ e = none
  rw [failAfter, calm.never]
  rfl

/-- No `send` draws more than one read. -/
theorem draws_le {s : State} {c : Command} {ws : List Wire} (accepted : wiresOf s c = .ok ws) :
    levelDraws (callsOf ws) ≤ 8 ∧ byteDraws (callsOf ws) ≤ 2 := by
  obtain ⟨_, ⟨_, rfl⟩ | ⟨_, eight⟩ | ⟨_, rfl, _⟩⟩ := wiresOf_ok_cases accepted
  · obtain ⟨rs, rw, _ | n | b⟩ := c <;> exact ⟨Nat.le_of_ble_eq_true rfl, Nat.le_of_ble_eq_true rfl⟩
  · obtain ⟨rs, rw, _ | n | b⟩ := c <;> cases eight <;> exact ⟨Nat.le_of_ble_eq_true rfl, Nat.le_of_ble_eq_true rfl⟩
  · obtain ⟨rs, rw, _ | n | b⟩ := c <;> exact ⟨Nat.le_of_ble_eq_true rfl, Nat.le_of_ble_eq_true rfl⟩

/-- A poll in a calm environment finds the controller idle. -/
theorem calm_not_busy {n : Nat} {e : Env} (calm : Calm (n + 1) e) (p : Params) : busyAnswer p e = false := by
  unfold busyAnswer
  cases p.transport with
  | parallelFourBit => simp [drawLevels_of_listed (calm.levels 3 (by omega)) (show 3 < 8 by omega)]
  | parallelEightBit => simp [drawLevels_of_listed (calm.levels 7 (by omega)) (show 7 < 8 by omega)]
  | i2cBridge => simp [nextByte_of_listed (calm.bytes 0 (by omega))]

/-- In a calm environment a Command that the transport takes is sent. -/
theorem sendNow_of_calm {s : State} {c : Command} {n : Nat} (running : s.fatal = none) (taken : Takes s.params c)
    (bootstrapped : s.params.transport = .i2cBridge → s.X.firstCommandSent = true ∨ c = bootstrap) (calm : Calm (n + 1) s.env) :
    ∃ ws, wiresOf s c = .ok ws ∧ s.sendNow c = s.delivering c ws ∧ Calm n (s.delivering c ws).env := by
  obtain ⟨ws, accepted⟩ := taken s rfl bootstrapped
  obtain ⟨levels, bytes⟩ := draws_le accepted
  exact ⟨ws, accepted, sendNow_of_failIn_none running accepted calm.never, calm_envAfter calm levels bytes⟩

/-- In a calm environment a poll loop sends its Command after one poll. -/
theorem stays_wait_of_calm {s : State} {c : Command} {n : Nat} (working : Working s) (ms : List Micro)
    (taken : Takes s.params c) (bootstrapped : s.params.transport = .i2cBridge → s.X.firstCommandSent = true)
    (calm : Calm (n + 2) s.env) :
    ∃ i u, Stays i (s.push (.waitIdle c :: ms)) (u.push ms) ∧ Advances s (pollCalls s 0 ++ sendCalls s c) (notReads [c]) u
      ∧ u.S = s.S ∧ Calm n u.env := by
  obtain ⟨ws, accepted, polled, calm'⟩ := sendNow_of_calm (n := n + 1) working.1 (takes_busyRead s.params)
    (fun tr => .inl (bootstrapped tr)) calm
  have completes : (s.sendNow busyRead).fatal = none := by rw [polled]; exact working.1
  obtain ⟨k, polls⟩ := stays_poll working c ms completes
  have advances := advances_send working completes
  rw [polled] at polls advances
  rw [pollActions, busyFlag_delivering accepted, calm_not_busy calm, if_neg Bool.false_ne_true] at polls
  obtain ⟨ws', accepted', sent, calm''⟩ := sendNow_of_calm (s := s.delivering busyRead ws) working.1 taken
    (fun tr => .inl (advances.bootstrapped (bootstrapped tr))) calm'
  have completes' : ((s.delivering busyRead ws).sendNow c).fatal = none := by rw [sent]; exact working.1
  obtain ⟨k', sends⟩ := stays_send_push advances.working ms completes'
  have advances' := advances_trans advances (advances_send advances.working completes')
  rw [sendCalls_congr advances.sameBus] at advances'
  exact ⟨_, _, stays_trans polls sends, advances', (sendNow_S _ c), by rw [sent]; exact calm''⟩

/-- Over the bridge a Command that the transport takes leaves the bootstrap done (R110). -/
theorem bootstrapped_of_taken {s u : State} {calls : List Call} {c : Command} {P : Prop} (advances : Advances s calls [c] u)
    (tr : s.params.transport = .i2cBridge) : u.X.firstCommandSent = true ∨ P :=
  .inl (advances.firstSent tr (List.cons_ne_nil c []))

/-- A script whose Commands the transport takes runs to its end in an environment that is calm for long enough. -/
theorem script_total {p : Params} {S S' : DisplayState} {ms : List Micro} {items : List Item}
    (script : Script p S ms items S') (takes : ∀ c ∈ commandsOf items, Takes p c) :
    ∃ N, ∀ (n : Nat) (s : State), Working s → s.params = p → s.S = S →
      (p.transport = .i2cBridge → s.X.firstCommandSent = true ∨ ms.head? = some (.send bootstrap)) → Calm (N + n) s.env →
      ∃ i u, Stays i (s.push ms) u ∧ Reaches s items S' u ∧ Calm n u.env := by
  induction script with
  | done S =>
    refine ⟨0, fun n s working _ shadow _ calm => ⟨0, s, by rw [push_nil]; exact .stay s, ?_, by rwa [Nat.zero_add] at calm⟩⟩
    exact ⟨⟨[], rfl, advances_refl working⟩, shadow⟩
  | @event _ _ ms _ c noDraw _ ih =>
    obtain ⟨N, rest⟩ := ih takes
    refine ⟨N, fun n s working params shadow bootstrapped calm => ?_⟩
    have first := stays_event working c ms (by rw [calm.never]; exact (Option.some_ne_none 0).symm)
    have advances := advances_event working c
    obtain ⟨i, u, stays, reaches, calm'⟩ := rest n _ advances.working params shadow
      (fun tr => (bootstrapped tr).imp_right fun first => by cases first) (calm_afterCall calm noDraw)
    exact ⟨_, u, stays_trans first stays,
      reaches_trans (items := [.event c]) ⟨⟨[c], ⟨[], rfl, rfl⟩, advances⟩, shadow⟩ reaches, calm'⟩
  | @plain _ _ ms _ c other _ ih =>
    obtain ⟨taken, takes⟩ := List.forall_mem_cons.mp takes
    obtain ⟨N, rest⟩ := ih takes
    refine ⟨N + 1, fun n s working params shadow bootstrapped calm => ?_⟩
    subst params
    obtain ⟨ws, accepted, sent, calm'⟩ := sendNow_of_calm (n := N + n) working.1 taken
      (fun tr => (bootstrapped tr).imp_right fun first => by cases first; rfl) (calm_of_le calm (by omega))
    have completes : (s.sendNow c).fatal = none := by rw [sent]; exact working.1
    obtain ⟨k, first⟩ := stays_send_push working ms completes
    have advances := advances_send working completes
    rw [notReads_singleton other] at advances
    have shadow' := (sendNow_S s c).trans shadow
    obtain ⟨i, u, stays, reaches, calm''⟩ := rest n _ advances.working advances.params shadow'
      (bootstrapped_of_taken advances) (by rw [sent]; exact calm')
    exact ⟨_, u, stays_trans first stays,
      reaches_trans (items := [.plain c]) ⟨⟨_, ⟨[], (List.append_nil _).symm, rfl⟩, advances⟩, shadow'⟩ reaches, calm''⟩
  | @polled _ _ ms _ c other _ ih =>
    obtain ⟨taken, takes⟩ := List.forall_mem_cons.mp takes
    obtain ⟨N, rest⟩ := ih takes
    refine ⟨N + 2, fun n s working params shadow bootstrapped calm => ?_⟩
    subst params
    obtain ⟨k, v, first, advances, same, calm'⟩ :=
      stays_wait_of_calm (n := N + n) working ms taken
        (fun tr => (bootstrapped tr).resolve_right fun first => by cases first) (calm_of_le calm (by omega))
    rw [notReads_singleton other] at advances
    have shadow' := same.trans shadow
    obtain ⟨i, u, stays, reaches, calm''⟩ := rest n v advances.working advances.params shadow'
      (bootstrapped_of_taken advances) calm'
    exact ⟨_, u, stays_trans first stays,
      reaches_trans (items := [.polled c]) ⟨⟨_, ⟨0, [], (List.append_nil _).symm, rfl⟩, advances⟩, shadow'⟩ reaches, calm''⟩
  | @silent S S₁ S' m ns ms items expands _ ih =>
    obtain ⟨N, rest⟩ := ih takes
    refine ⟨N, fun n s working params shadow bootstrapped calm => ?_⟩
    obtain ⟨r, becomes⟩ := expands.2 (s.push ms) params shadow
    have becomes : (s.push ms).micro m = ((s.assign S₁).returning r).push (ns ++ ms) :=
      becomes.trans (push_push ((s.assign S₁).returning r) ms ns)
    have first := stays_push_cons working m ms (by rw [becomes, stageOf_push]; rfl)
    rw [becomes] at first
    have advances := advances_silent working S₁ r
    obtain ⟨i, u, stays, reaches, calm'⟩ := rest n _ advances.working params rfl
      (fun tr => (bootstrapped tr).imp_right fun first => absurd (Option.some.inj first) (expands.1 bootstrap)) calm
    exact ⟨_, u, stays_trans first stays, reaches_trans (items := []) ⟨⟨[], rfl, advances⟩, rfl⟩ reaches, calm'⟩

end Sys2Proof.Machine
end

section
/-! Operations requested by the host, run until the block is idle again (R29, R30). -/
namespace Sys2Proof.Machine
open Sys2Proof.Claim

/-! ## The end of a run -/

theorem micro_requests (s : State) (m : Micro) : (s.micro m).requests = s.requests := by
  obtain ⟨w, rfl⟩ | ⟨e, raises⟩ | ⟨c, ws, _, _, sends⟩ | ⟨t, ms, expands, ⟨_, _, frame⟩, _⟩ := micro_cases s m
  · exact wire_requests s w
  · rw [raises]; rfl
  · rw [sends]; rfl
  · rw [expands, push_requests, frame]

theorem eq_of_runs_idle {k : Nat} {s t : State} (running : s.fatal = none) (idle : s.seq = .idle)
    (none : s.requests = []) (runs : Runs k s t) : t = s := by
  induction k with
  | zero => cases runs; rfl
  | succ k ih =>
    obtain ⟨u, next, rest⟩ := runs_succ_inv runs
    cases (step_idle_nil running idle none).symm.trans next
    exact ih rest

/-- A block that has halted in an operation does not become idle (R28, R191). -/
theorem not_idle_of_halted {k : Nat} {s t : State} (halted : s.fatal ≠ none) (busy : s.seq ≠ .idle) (runs : Runs k s t) :
    t.seq ≠ .idle := by
  cases k with
  | zero => cases runs; exact busy
  | succ k =>
    obtain ⟨u, next, _⟩ := runs_succ_inv runs
    obtain ⟨e, fatal⟩ := Option.ne_none_iff_exists'.mp halted
    rw [step_halted fatal] at next
    cases next

/-- A run of an operation to the idle block takes its actions to their end. -/
theorem ended_of_runs {k : Nat} {s t : State} {n : Nat} {st : Option InitStage} {m : Micro} {ms : List Micro}
    (running : s.fatal = none) (hq : s.seq = .running n st (m :: ms)) (none : s.requests = []) (runs : Runs k s t)
    (idle : t.seq = .idle) : ∃ j u, Goes j s u ∧ Ended u ∧ t = u.rested := by
  induction k generalizing s n st m ms with
  | zero => cases runs; rw [hq] at idle; cases idle
  | succ k ih =>
    obtain ⟨u, next, rest⟩ := runs_succ_inv runs
    cases (step_running running hq).symm.trans next
    have first := goes_of_micro running hq rfl
    have requests := (micro_requests (s.placed (.running n st ms)) m).trans none
    obtain ⟨n', st', ms', seq⟩ := micro_keeps_tail (s := s.placed (.running n st ms)) m rfl
    by_cases goesOn : ((s.placed (.running n st ms)).micro m).fatal = Option.none
    · cases left : ms' ++ ms with
      | nil =>
        rw [left] at seq
        have ended : Ended ((s.placed (.running n st ms)).micro m) := ⟨goesOn, n', st', seq⟩
        have settled : Runs k ((s.placed (.running n st ms)).micro m).settle t := rest
        rw [settle_of_ended ended] at settled
        exact ⟨1, _, first, ended, eq_of_runs_idle (s := State.rested _) goesOn rfl requests settled⟩
      | cons m' ms' =>
        rw [left] at seq
        have settled : Runs k ((s.placed (.running n st ms)).micro m).settle t := rest
        rw [show ((s.placed (.running n st ms)).micro m).settle = _ from
          settle_of_goes (goes_of_micro goesOn seq rfl)] at settled
        obtain ⟨j, u, goes, ended, same⟩ := ih goesOn seq requests settled
        exact ⟨1 + j, u, goes_trans first goes, ended, same⟩
    · have settled : Runs k ((s.placed (.running n st ms)).micro m).settle t := rest
      rw [settle_of_halted goesOn] at settled
      exact absurd idle (not_idle_of_halted goesOn (by rw [seq]; exact Seq.noConfusion) settled)

/-! ## Requested operations -/

/-- An operation that fails a check of its start does not complete (R191). -/
theorem not_runsToIdle_of_error {s t : State} {o : Op} {e : FatalError} (asked : Asked s o [])
    (start : startOp o (s.taking []) = .error e) : ¬ RunsToIdle s t := by
  rintro ⟨k, runs, idle⟩
  obtain ⟨u, next, rest⟩ := runs_succ_inv runs
  cases (step_of_asked_error asked start).symm.trans next
  exact not_idle_of_halted (Option.some_ne_none _) Seq.noConfusion rest idle

/-- The block at the start of an operation, its assignments made. -/
def State.begun (s : State) (S : DisplayState) : State := Claim.begun s [] S []

theorem begun_eq_push (s : State) (S : DisplayState) (ms : List Micro) : begun s [] S ms = (s.begun S).push ms := by
  simp [State.begun, begun, State.push, Seq.push]

theorem Starts.at_taking {s : State} {o : Op} {S : DisplayState} {ms : List Micro} (starts : Starts s.params s.S o S ms) :
    startOp o (s.taking []) = .ok ((s.taking []).assign S, ms) := starts (s.taking []) rfl rfl

/-- A requested operation that leaves actions to do, run to the idle block. -/
theorem goes_of_runsToIdle {s t : State} {o : Op} {S : DisplayState} {m : Micro} {ms : List Micro} (asked : Asked s o [])
    (starts : Starts s.params s.S o S (m :: ms)) (runs : RunsToIdle s t) :
    ∃ j u, Goes j ((s.begun S).push (m :: ms)) u ∧ Ended u ∧ t = u.rested := by
  obtain ⟨k, runs, idle⟩ := runs
  obtain ⟨u, next, rest⟩ := runs_succ_inv runs
  cases (step_of_asked_begun asked starts.at_taking).symm.trans next
  rw [← begun_eq_push]
  exact ended_of_runs asked.1 rfl rfl rest idle

theorem runsToIdle_of_goes {s u : State} {o : Op} {S : DisplayState} {m : Micro} {ms : List Micro} {j : Nat}
    (asked : Asked s o []) (starts : Starts s.params s.S o S (m :: ms)) (goes : Goes j ((s.begun S).push (m :: ms)) u)
    (ended : Ended u) : RunsToIdle s u.rested := by
  rw [← begun_eq_push] at goes
  have begins := step_of_asked_begun asked starts.at_taking
  cases j with
  | zero =>
    cases goes
    obtain ⟨_, n, st, hq⟩ := ended
    cases hq
  | succ j =>
    have runs := runs_of_goes goes
    rw [settle_of_ended ended] at runs
    exact ⟨j + 1, runs_succ begins runs, rfl⟩

/-- What a completed operation has done: the shadow, the timeline, the Commands sent. -/
structure Outcome (s : State) (items : List Item) (S : DisplayState) (t : State) : Prop where
  running : t.fatal = none
  shadow : t.S = S
  follows : Follows s items (callsBetween s t)
  sent : sentBetween s t = commandsOf items

theorem working_begun {s : State} (running : s.fatal = none) (S : DisplayState) : Working (s.begun S) :=
  ⟨running, 0, none, [], rfl⟩

/-- The rest of an operation that has come to its end along a script. -/
theorem outcome_of_reaches {s u : State} {items : List Item} {S S' : DisplayState}
    (reaches : Reaches (s.begun S) items S' u) : Outcome s items S' u.rested := by
  obtain ⟨⟨calls, follows, advances⟩, shadow⟩ := reaches
  obtain ⟨es, trace, rfl⟩ := advances.trace
  obtain ⟨cs, delivered, sent⟩ := advances.delivered
  refine ⟨advances.running, shadow, ?_, ?_⟩
  · have calls : callsBetween s u.rested = es.map Event.call := by
      show (u.trace.drop s.trace.length).map Event.call = _
      rw [trace]
      exact congrArg (List.map Event.call) (List.drop_left ..)
    rw [calls]
    exact follows_congr (s := s) (u := s.begun S) ⟨rfl, rfl, rfl, rfl⟩ follows
  · show notReads (u.delivered.drop s.delivered.length) = _
    rw [delivered, ← sent]
    exact congrArg notReads (List.drop_left ..)

/-- Every completed run of an operation has the outcome of its script. -/
theorem outcome_of_script {s t : State} {o : Op} {S S' : DisplayState} {ms : List Micro} {items : List Item}
    (asked : Asked s o []) (starts : Starts s.params s.S o S ms) (script : Script s.params S ms items S')
    (runs : RunsToIdle s t) : Outcome s items S' t := by
  cases ms with
  | nil =>
    obtain ⟨k, runs, _⟩ := runs
    obtain ⟨u, next, rest⟩ := runs_succ_inv runs
    cases (step_of_asked_done asked starts.at_taking).symm.trans next
    cases eq_of_runs_idle (s := { s with requests := [], result := .nothing, S := S }) asked.1 asked.2.1 rfl rest
    cases script
    refine ⟨asked.1, rfl, ?_, ?_⟩
    · show (s.trace.drop s.trace.length).map Event.call = []
      rw [List.drop_length]
      rfl
    · show notReads (s.delivered.drop s.delivered.length) = []
      rw [List.drop_length]
      rfl
  | cons m ms =>
    obtain ⟨j, v, goes, ended, rfl⟩ := goes_of_runsToIdle asked starts runs
    obtain ⟨i, j', u, _, rest, reaches⟩ := script_sound script (working_begun asked.1 S) rfl rfl goes ended
    have last : u = v := by
      obtain ⟨calls, _, advances⟩ := reaches.advances
      obtain ⟨_, n, _, st, _, hq, hq'⟩ := advances.seq
      cases hq
      cases rest with
      | stay => rfl
      | act _ left _ => rw [hq'] at left; cases left
    exact last ▸ outcome_of_reaches reaches

/-- An operation whose Commands the transport takes can complete. -/
theorem canComplete_of_script {s : State} {o : Op} {S S' : DisplayState} {ms : List Micro} {items : List Item}
    (asked : Asked s o []) (starts : Starts s.params s.S o S ms) (script : Script s.params S ms items S')
    (bootstrapped : s.params.transport = .i2cBridge → s.X.firstCommandSent = true)
    (takes : ∀ c ∈ commandsOf items, Takes s.params c) : CanComplete s := by
  obtain ⟨N, total⟩ := script_total script takes
  have asked' : Asked { s with env := calmEnv N } o [] := asked
  refine ⟨calmEnv N, ?_⟩
  cases ms with
  | nil =>
    refine ⟨_, 0, runs_succ (step_of_asked_done asked' (starts.at_taking (s := { s with env := calmEnv N }))) rfl, asked.2.1⟩
  | cons m ms =>
    obtain ⟨i, u, stays, reaches, _⟩ := total 0 (({ s with env := calmEnv N } : State).begun S)
      (working_begun asked.1 S) rfl rfl (fun tr => .inl (bootstrapped tr)) (calm_calmEnv N)
    have ended : Ended u := by
      obtain ⟨calls, _, advances⟩ := reaches.advances
      obtain ⟨_, n, _, st, _, hq, hq'⟩ := advances.seq
      cases hq
      exact ⟨advances.running, n, st, hq'⟩
    exact ⟨u.rested, runsToIdle_of_goes asked' starts (goes_of_stays stays) ended⟩

end Sys2Proof.Machine
end

section
/-! The scripts of the operations that send one instruction (R138 to R147, R154 to R157, R159). -/
namespace Sys2Proof.Machine
open Sys2Proof.Claim

theorem instruction_ne_busyRead (b : Byte) : instruction b ≠ busyRead := fun same => by cases same
theorem dataWrite_ne_busyRead (b : Byte) : dataWrite b ≠ busyRead := fun same => by cases same
theorem dataRead_ne_busyRead : readCommand .data ≠ busyRead := fun same => by cases same

/-- The shadow after the auto-step of a data transfer (R134). -/
def stepped (S : DisplayState) : DisplayState :=
  { S with cursorPos := stepPos S.lineMode S.cursorPos S.direction }

section
variable (p : Params) (S : DisplayState)

theorem expands_stepCursor : Expands p S .stepCursor (stepped S) [] := by
  refine ⟨fun _ => Micro.noConfusion, ?_⟩
  rintro s rfl rfl
  exact ⟨s.result, (push_nil _).symm⟩

theorem expands_returnSent : Expands p S .returnSent S [] := by
  refine ⟨fun _ => Micro.noConfusion, ?_⟩
  rintro s rfl rfl
  exact ⟨resultOfSent s.sent, (push_nil _).symm⟩

theorem expands_home : Expands p S .home S.homed [] := by
  refine ⟨fun _ => Micro.noConfusion, ?_⟩
  rintro s rfl rfl
  exact ⟨s.result, (push_nil _).symm⟩

theorem starts_shiftCursor (d : Direction) :
    Starts p S (.shiftCursorOrDisplay .cursorOnly d) { S with cursorPos := stepPos S.lineMode S.cursorPos d }
      [.waitIdle (instruction (shiftByte .cursorOnly d))] := by
  rintro s rfl rfl
  exact startShift_cursorOnly d s

theorem starts_shiftDisplay (d : Direction) :
    Starts p S (.shiftCursorOrDisplay .cursorAndDisplay d)
      { S with displayOffset := shiftOffset p.offsetStepLtr S.lineMode S.displayOffset d }
      [.waitIdle (instruction (shiftByte .cursorAndDisplay d))] := by
  rintro s rfl rfl
  exact startShift_cursorAndDisplay d s

theorem starts_setDisplayOn (v : Switch) :
    Starts p S (.setDisplayOn v) { S with displayOn := v }
      [.waitIdle (instruction (displayControlByte { S with displayOn := v }))] := by
  rintro s rfl rfl
  exact startSetDisplayOn_eq v s

theorem starts_setCursorOn (v : Switch) :
    Starts p S (.setCursorOn v) { S with cursorOn := v }
      [.waitIdle (instruction (displayControlByte { S with cursorOn := v }))] := by
  rintro s rfl rfl
  exact startSetCursorOn_eq v s

theorem starts_setCursorBlink (v : Switch) :
    Starts p S (.setCursorBlink v) { S with cursorBlink := v }
      [.waitIdle (instruction (displayControlByte { S with cursorBlink := v }))] := by
  rintro s rfl rfl
  exact startSetCursorBlink_eq v s

theorem starts_setDirection (d : Direction) :
    Starts p S (.setDirection d) { S with direction := d }
      [.waitIdle (instruction (entryModeByte { S with direction := d }))] := by
  rintro s rfl rfl
  exact startSetDirection_eq d s

theorem starts_setShiftType (t : ShiftType) :
    Starts p S (.setShiftType t) { S with shiftType := t }
      [.waitIdle (instruction (entryModeByte { S with shiftType := t }))] := by
  rintro s rfl rfl
  exact startSetShiftType_eq t s

theorem starts_clearDisplay :
    Starts p S .clearDisplay
      { S.homed with direction := if p.clearSetsLtr then .leftToRight else S.direction } [.waitIdle (instruction 0x01)] := by
  rintro s rfl rfl
  rfl

theorem starts_returnHome : Starts p S .returnHome S.homed [.waitIdle (instruction 0x02)] := by
  rintro s rfl rfl
  rfl

variable {p S}

theorem starts_setCursorPos {pos : Pos} (valid : inBounds S.lineMode pos = true) :
    Starts p S (.setCursorPos pos) { S with cursorPos := pos, ramType := .ddram }
      [.waitIdle (instruction (setDdramByte S.lineMode pos))] := by
  rintro s rfl rfl
  exact startSetCursorPos_of_inBounds valid

theorem starts_setCgramAddr {a : Nat} (inRange : a < 64) :
    Starts p S (.setCgramAddr a) { S with ramType := .cgram } [.waitIdle (instruction (BitVec.ofNat 8 (0x40 + a)))] := by
  rintro s rfl rfl
  exact startSetCgramAddr_of_lt inRange

theorem starts_setLineMode {m : LineMode} (font : fontLineOk m S.font = true) (within : positionsWithin m S = true) :
    Starts p S (.setLineMode m) { S with lineMode := m }
      [.waitIdle (instruction (functionSetByte { S with lineMode := m }))] := by
  rintro s rfl rfl
  exact startSetLineMode_of_ok font within

theorem starts_setFont {f : Font} (font : fontLineOk S.lineMode f = true) :
    Starts p S (.setFont f) { S with font := f } [.waitIdle (instruction (functionSetByte { S with font := f }))] := by
  rintro s rfl rfl
  exact startSetFont_of_ok font

theorem starts_writeU8ToCur (ddram : S.ramType = .ddram) (b : Byte) :
    Starts p S (.writeU8ToCur b) S [.waitIdle (dataWrite b), .stepCursor] := by
  rintro s rfl rfl
  exact startWriteU8ToCur_of_ddram ddram b

theorem starts_readU8FromCur (ddram : S.ramType = .ddram) :
    Starts p S .readU8FromCur S [.waitIdle (readCommand .data), .stepCursor, .returnSent] := by
  rintro s rfl rfl
  exact startReadU8FromCur_of_ddram ddram

theorem starts_writeCharToCur (ddram : S.ramType = .ddram) (ch : Char) :
    Starts p S (.writeCharToCur ch) S [.call (.writeU8ToCur (charByte ch))] := by
  rintro s rfl rfl
  exact startWriteCharToCur_of_ddram ddram ch

/-- A nested operation that sends one instruction. -/
theorem script_call {o : Op} {S₁ S' : DisplayState} {b : Byte} {ms : List Micro} {items : List Item}
    (starts : Starts p S o S₁ [.waitIdle (instruction b)]) (more : Script p S₁ ms items S') :
    Script p S (.call o :: ms) (.polled (instruction b) :: items) S' :=
  .silent (expands_call starts) (.polled _ (instruction_ne_busyRead b) more)

/-- A nested write at the cursor. -/
theorem script_write {S' : DisplayState} {b : Byte} {ms : List Micro} {items : List Item} (ddram : S.ramType = .ddram)
    (more : Script p (stepped S) ms items S') :
    Script p S (.call (.writeU8ToCur b) :: ms) (.polled (dataWrite b) :: items) S' :=
  .silent (expands_call (starts_writeU8ToCur ddram b))
    (.polled _ (dataWrite_ne_busyRead b) (.silent (expands_stepCursor p S) more))

end

/-! ## What each sends, and the shadow it ends with -/

/-- The instruction of an operation that sends one. -/
def instrOf (S : DisplayState) : Op → Instr
  | .setCursorPos pos => .setDDRAM (ddramAddr S.lineMode pos)
  | .setCgramAddr a => .setCGRAM a
  | .shiftCursorOrDisplay shift d => .cursorOrDisplayShift shift d
  | .setLineMode m => .functionSet S.dataWidth m S.font
  | .setFont f => .functionSet S.dataWidth S.lineMode f
  | .setDisplayOn v => .displayOnOff v S.cursorOn S.cursorBlink
  | .setDirection d => .entryModeSet d S.shiftType
  | .setCursorOn v => .displayOnOff S.displayOn v S.cursorBlink
  | .setCursorBlink v => .displayOnOff S.displayOn S.cursorOn v
  | .setShiftType t => .entryModeSet S.direction t
  | .clearDisplay => .clearDisplay
  | .returnHome => .returnHome
  | .writeU8ToCur b => .writeDataToRAM b
  | .readU8FromCur => .readDataFromRAM
  | .writeCharToCur ch => .writeDataToRAM (charByte ch)
  | _ => .readBusyFlagAndAddress

/-- The shadow after an operation that sends one instruction. -/
def shadowAfter (p : Params) (S : DisplayState) : Op → DisplayState
  | .setCursorPos pos => { S with cursorPos := pos, ramType := .ddram }
  | .setCgramAddr _ => { S with ramType := .cgram }
  | .shiftCursorOrDisplay .cursorOnly d => { S with cursorPos := stepPos S.lineMode S.cursorPos d }
  | .shiftCursorOrDisplay .cursorAndDisplay d =>
    { S with displayOffset := shiftOffset p.offsetStepLtr S.lineMode S.displayOffset d }
  | .setLineMode m => { S with lineMode := m }
  | .setFont f => { S with font := f }
  | .setDisplayOn v => { S with displayOn := v }
  | .setDirection d => { S with direction := d }
  | .setCursorOn v => { S with cursorOn := v }
  | .setCursorBlink v => { S with cursorBlink := v }
  | .setShiftType t => { S with shiftType := t }
  | .clearDisplay => { S.homed with direction := if p.clearSetsLtr then .leftToRight else S.direction }
  | .returnHome => S.homed
  | .writeU8ToCur _ => stepped S
  | .readU8FromCur => stepped S
  | .writeCharToCur _ => stepped S
  | _ => S

/-- An operation that sends one instruction: its script, its Command, and that the transport takes it. -/
structure SendsOne (s : State) (o : Op) : Prop where
  script : ∃ S₁ ms c, Starts s.params s.S o S₁ ms ∧ Script s.params S₁ ms [.polled c] (shadowAfter s.params s.S o)
    ∧ encodeCommand (instrOf s.S o) = .ok c ∧ (CanSend s → Takes s.params c)

theorem sendsOne_instruction {s : State} {o : Op} {b : Byte}
    (starts : Starts s.params s.S o (shadowAfter s.params s.S o) [.waitIdle (instruction b)])
    (encodes : encodeCommand (instrOf s.S o) = .ok (instruction b)) (taken : CanSend s → Takes s.params (instruction b)) :
    SendsOne s o :=
  ⟨_, _, _, starts, .polled _ (instruction_ne_busyRead b) (.done _), encodes, taken⟩

/-- Where its preconditions hold, an operation that sends one instruction does so. -/
theorem sendsOne_of_allowed {s : State} {o : Op} (one : oneInstruction o = true) (ok : allowed s o = true) :
    SendsOne s o := by
  cases o with
  | setCursorPos pos =>
    refine sendsOne_instruction (starts_setCursorPos ok) (encodeSetDDRAM_ddramAddr ok) fun _ => takes_instruction fun _ => ?_
    rw [setDdramByte_eq, BitVec.toNat_ofNat, Nat.mod_eq_of_lt (by have := ddramAddr_lt ok; omega)]
    omega
  | setCgramAddr a =>
    have inRange : a < 64 := of_decide_eq_true ok
    refine sendsOne_instruction (starts_setCgramAddr inRange) (encodeSetCGRAM_of_lt inRange) fun _ => takes_instruction fun _ => ?_
    rw [BitVec.toNat_ofNat, Nat.mod_eq_of_lt (by omega)]
    omega
  | shiftCursorOrDisplay shift d =>
    cases shift with
    | cursorOnly =>
      exact sendsOne_instruction (starts_shiftCursor _ _ d) (congrArg _ (encodeCursorOrDisplayShift_eq _ d))
        fun _ => takes_shift _ _ d
    | cursorAndDisplay =>
      exact sendsOne_instruction (starts_shiftDisplay _ _ d) (congrArg _ (encodeCursorOrDisplayShift_eq _ d))
        fun _ => takes_shift _ _ d
  | setLineMode m =>
    obtain ⟨font, within⟩ := Bool.and_eq_true_iff.mp ok
    exact sendsOne_instruction (starts_setLineMode font within) (congrArg _ (functionSetCommand_eq { s.S with lineMode := m }))
      fun canSend => takes_functionSet fun tr => (canSend tr).2
  | setFont f =>
    exact sendsOne_instruction (starts_setFont ok) (congrArg _ (functionSetCommand_eq { s.S with font := f }))
      fun canSend => takes_functionSet fun tr => (canSend tr).2
  | setDisplayOn v =>
    exact sendsOne_instruction (starts_setDisplayOn _ _ v) (congrArg _ (displayControlCommand_eq { s.S with displayOn := v }))
      fun _ => takes_displayControl _ _
  | setDirection d =>
    exact sendsOne_instruction (starts_setDirection _ _ d) (congrArg _ (entryModeCommand_eq { s.S with direction := d }))
      fun _ => takes_entryMode _ _
  | setCursorOn v =>
    exact sendsOne_instruction (starts_setCursorOn _ _ v) (congrArg _ (displayControlCommand_eq { s.S with cursorOn := v }))
      fun _ => takes_displayControl _ _
  | setCursorBlink v =>
    exact sendsOne_instruction (starts_setCursorBlink _ _ v) (congrArg _ (displayControlCommand_eq { s.S with cursorBlink := v }))
      fun _ => takes_displayControl _ _
  | setShiftType t =>
    exact sendsOne_instruction (starts_setShiftType _ _ t) (congrArg _ (entryModeCommand_eq { s.S with shiftType := t }))
      fun _ => takes_entryMode _ _
  | clearDisplay => exact sendsOne_instruction (starts_clearDisplay _ _) rfl fun _ => takes_instruction fun _ => by decide
  | returnHome => exact sendsOne_instruction (starts_returnHome _ _) rfl fun _ => takes_instruction fun _ => by decide
  | writeU8ToCur b =>
    exact ⟨_, _, _, starts_writeU8ToCur (of_decide_eq_true ok) b,
      .polled _ (dataWrite_ne_busyRead b) (.silent (expands_stepCursor _ _) (.done _)), rfl, fun _ => takes_dataWrite _ b⟩
  | readU8FromCur =>
    exact ⟨_, _, _, starts_readU8FromCur (of_decide_eq_true ok),
      .polled _ dataRead_ne_busyRead
        (.silent (expands_stepCursor _ _) (.silent (expands_returnSent _ _) (.done _))), rfl, fun _ => takes_dataRead _⟩
  | writeCharToCur ch =>
    have ddram := of_decide_eq_true ok
    exact ⟨_, _, _, starts_writeCharToCur ddram ch, script_write ddram (.done _), rfl, fun _ => takes_dataWrite _ _⟩
  | _ => cases one

/-- Where they do not hold, it halts at its start. -/
theorem start_error_of_not_allowed {s : State} {o : Op} (one : oneInstruction o = true) (out : allowed s o = false) :
    ∃ e, startOp o (s.taking []) = .error e := by
  cases o with
  | setCursorPos pos => exact ⟨_, startSetCursorPos_of_not_inBounds (s := s.taking []) out⟩
  | setCgramAddr a =>
    have out : ¬ a < 64 := of_decide_eq_false out
    exact ⟨_, by simp only [startOp, startSetCgramAddr, encodeSetCGRAM_of_ge (Nat.le_of_not_lt out)]; rfl⟩
  | setLineMode m =>
    cases font : fontLineOk m s.S.font with
    | false => exact ⟨_, by simp only [startOp, startSetLineMode, State.taking, font]; rfl⟩
    | true =>
      have within : positionsWithin m s.S = false := by simpa [allowed, font] using out
      exact ⟨_, by simp only [startOp, startSetLineMode, State.taking, font, within]; rfl⟩
  | setFont f =>
    have font : fontLineOk s.S.lineMode f = false := out
    exact ⟨_, by simp only [startOp, startSetFont, State.taking, font]; rfl⟩
  | writeU8ToCur b => exact ⟨_, by rw [startOp, startWriteU8ToCur, requireDdram, if_neg]; exact of_decide_eq_false out⟩
  | readU8FromCur => exact ⟨_, by rw [startOp, startReadU8FromCur, requireDdram, if_neg]; exact of_decide_eq_false out⟩
  | writeCharToCur ch => exact ⟨_, by rw [startOp, startWriteCharToCur, requireDdram, if_neg]; exact of_decide_eq_false out⟩
  | shiftCursorOrDisplay shift d => cases out
  | setDisplayOn v => cases out
  | setDirection d => cases out
  | setCursorOn v => cases out
  | setCursorBlink v => cases out
  | setShiftType t => cases out
  | clearDisplay => cases out
  | returnHome => cases out
  | _ => cases one

end Sys2Proof.Machine
end

section
/-! Lockstep with the assumed controller (R24, R56, R59). -/
namespace Sys2Proof.Machine
open Sys2Proof.Claim

/-- Busy-flag reads make no difference to the controller (R41). -/
theorem takeAll_notReads (p : Params) (cs : List Command) (k : AssumedController) :
    AssumedController.takeAll p (notReads cs) k = AssumedController.takeAll p cs k := by
  induction cs generalizing k with
  | nil => rfl
  | cons c cs ih =>
    by_cases read : c = busyRead
    · subst read
      exact (ih k).trans (takeAll_busyRead p cs k).symm
    · rw [← List.singleton_append, notReads_append, notReads_singleton read, takeAll_append, takeAll_append, ih]

/-- The controller takes the Command of an instruction as that instruction. -/
theorem takeAll_encoded {i : Instr} {c : Command} (encodes : encodeCommand i = .ok c) (p : Params) (cs : List Command)
    (k : AssumedController) :
    AssumedController.takeAll p (c :: cs) k = AssumedController.takeAll p cs (k.take p i) := by
  rw [AssumedController.takeAll, decode_wordOfCommand encodes]

/-- The controller after a completed operation has taken the Commands of its timeline. -/
theorem Outcome.takeAll {s t : State} {items : List Item} {S : DisplayState} (outcome : Outcome s items S t) (p : Params)
    (k : AssumedController) :
    AssumedController.takeAll p (t.delivered.drop s.delivered.length) k = AssumedController.takeAll p (commandsOf items) k := by
  rw [← outcome.sent, ← takeAll_notReads]
  rfl

theorem posOfAddr_ddramAddr {m : LineMode} {pos : Pos} (valid : inBounds m pos = true) :
    posOfAddr m (ddramAddr m pos) = some pos := by
  rw [inBounds_iff] at valid
  obtain ⟨col, row⟩ := pos
  obtain ⟨hcol, hrow⟩ := valid
  cases m with
  | oneLine =>
    simp only [lineCapacity, rowCount] at hcol hrow
    obtain rfl : row = 0 := by omega
    exact if_pos hcol
  | twoLine =>
    simp only [lineCapacity, rowCount] at hcol hrow
    obtain rfl | rfl : row = 0 ∨ row = 1 := by omega
    · exact if_pos hcol
    · have address : ddramAddr .twoLine { col := col, row := 1 } = col + 0x40 := rfl
      simp only [address, posOfAddr]
      rw [if_neg (by omega), if_pos (by omega), Nat.add_sub_cancel]

/-- In DDRAM space the address counter moves with the cursor (R59). -/
theorem moved_of_lockstep {S : DisplayState} {k : AssumedController} (lockstep : Lockstep S k)
    (valid : inBounds S.lineMode S.cursorPos = true) (ddram : S.ramType = .ddram) (d : Direction) :
    k.moved (some d) = some (ddramAddr S.lineMode (stepPos S.lineMode S.cursorPos d)) := by
  obtain ⟨line, _, _, ram, _, ac⟩ := lockstep
  rw [ddram] at ram
  simp only [AssumedController.moved, line, ram, ac ddram, posOfAddr_ddramAddr valid, Option.map_some]

/-- A data transfer with the entry-mode shift bit clear keeps lockstep (R42, R59, D24). -/
theorem lockstep_afterTransfer {S : DisplayState} {k : AssumedController} (lockstep : Lockstep S k)
    (valid : inBounds S.lineMode S.cursorPos = true) (ddram : S.ramType = .ddram) (clear : S.shiftType = .cursorOnly) :
    Lockstep (stepped S) k.afterTransfer := by
  have moved := moved_of_lockstep lockstep valid ddram S.direction
  obtain ⟨line, direction, shift, ram, offset, ac⟩ := lockstep
  refine ⟨line, direction, shift, ram, ?_, fun _ => ?_⟩
  · simp only [AssumedController.afterTransfer, AssumedController.offsetAfterTransfer, shift, clear]
    exact offset
  · simp only [AssumedController.afterTransfer, AssumedController.acAfterTransfer, ram, ddram, direction]
    exact moved

/-- An address within bounds in both line modes is the same in both. -/
theorem ddramAddr_of_both {m m' : LineMode} {pos : Pos} (valid : inBounds m pos = true) (valid' : inBounds m' pos = true) :
    ddramAddr m pos = ddramAddr m' pos := by
  rw [inBounds_iff] at valid valid'
  cases m <;> cases m' <;> simp only [ddramAddr, rowCount] at * <;> omega

theorem ddramAddr_home (m : LineMode) : ddramAddr m { col := 0, row := 0 } = 0 := by cases m <;> rfl

/-- The lockstep of the shadow and the controller after each of those operations. -/
theorem lockstep_shadowAfter {s : State} {o : Op} {k : AssumedController} (one : oneInstruction o = true)
    (ok : allowed s o = true) (within : positionsWithin s.S.lineMode s.S = true) (premise : lockstepPremise s o = true)
    (lockstep : Lockstep s.S k) : Lockstep (shadowAfter s.params s.S o) (k.take s.params (instrOf s.S o)) := by
  have valid : inBounds s.S.lineMode s.S.cursorPos = true := (Bool.and_eq_true_iff.mp within).1
  have ⟨line, direction, shift, ram, offset, ac⟩ := lockstep
  cases o with
  | setCursorPos pos => exact ⟨line, direction, shift, rfl, offset, fun _ => rfl⟩
  | setCgramAddr a => exact ⟨line, direction, shift, rfl, offset, fun ddram => by cases ddram⟩
  | shiftCursorOrDisplay kind d =>
    cases kind with
    | cursorOnly => exact ⟨line, direction, shift, ram, offset, fun ddram => moved_of_lockstep lockstep valid ddram d⟩
    | cursorAndDisplay =>
      refine ⟨line, direction, shift, ram, ?_, ac⟩
      simp only [instrOf, AssumedController.take, AssumedController.offsetAfterShift, line, offset]
      rfl
  | setLineMode m =>
    obtain ⟨_, within'⟩ := Bool.and_eq_true_iff.mp ok
    have valid' : inBounds m s.S.cursorPos = true := (Bool.and_eq_true_iff.mp within').1
    exact ⟨rfl, direction, shift, ram, offset, fun ddram => (ac ddram).trans (congrArg some (ddramAddr_of_both valid valid'))⟩
  | setFont f => exact ⟨rfl, direction, shift, ram, offset, ac⟩
  | setDisplayOn v => exact lockstep
  | setDirection d => exact ⟨line, rfl, rfl, ram, offset, ac⟩
  | setCursorOn v => exact lockstep
  | setCursorBlink v => exact lockstep
  | setShiftType t => exact ⟨line, rfl, rfl, ram, offset, ac⟩
  | clearDisplay =>
    refine ⟨line, ?_, shift, rfl, rfl, fun _ => congrArg some (ddramAddr_home s.S.lineMode).symm⟩
    have keeps : s.params.clearSetsLtr = true ∨ s.S.direction = .leftToRight :=
      (Bool.or_eq_true_iff.mp premise).imp_right of_decide_eq_true
    simp only [instrOf, shadowAfter, AssumedController.take, AssumedController.directionAfterClear, direction]
    obtain set | ltr := keeps
    · simp [set]
    · simp [ltr]
  | returnHome =>
    exact ⟨line, direction, shift, rfl, rfl, fun _ => congrArg some (ddramAddr_home s.S.lineMode).symm⟩
  | writeU8ToCur b => exact lockstep_afterTransfer lockstep valid (of_decide_eq_true ok) (of_decide_eq_true premise)
  | readU8FromCur => exact lockstep_afterTransfer lockstep valid (of_decide_eq_true ok) (of_decide_eq_true premise)
  | writeCharToCur ch => exact lockstep_afterTransfer lockstep valid (of_decide_eq_true ok) (of_decide_eq_true premise)
  | _ => cases one

/-- A completed operation that sends one instruction: it met its preconditions, and the controller has taken its
instruction. -/
theorem completed_one {s t : State} {o : Op} (asked : Asked s o []) (one : oneInstruction o = true) (runs : RunsToIdle s t)
    (k : AssumedController) :
    allowed s o = true ∧ t.fatal = none ∧ t.S = shadowAfter s.params s.S o
      ∧ k.takeAll s.params (t.delivered.drop s.delivered.length) = k.take s.params (instrOf s.S o) := by
  cases ok : allowed s o with
  | false =>
    obtain ⟨e, error⟩ := start_error_of_not_allowed one ok
    exact absurd runs (not_runsToIdle_of_error asked error)
  | true =>
    obtain ⟨S₁, ms, c, starts, script, encodes, _⟩ := (sendsOne_of_allowed one ok).script
    have outcome := outcome_of_script asked starts script runs
    refine ⟨rfl, outcome.running, outcome.shadow, ?_⟩
    rw [outcome.takeAll, commandsOf, commandsOf, takeAll_encoded encodes, takeAll_nil]

/-- Settles O44, from the script of each operation and its instruction. -/
theorem oneInstructionOperationsKeepLockstep : Obligations.OneInstructionOperationsKeepLockstep := by
  intro s o k asked one shadowOk lockstep
  refine ⟨fun ok canSend => ?_, fun premise t runs => ?_⟩
  · obtain ⟨S₁, ms, c, starts, script, _, taken⟩ := (sendsOne_of_allowed one ok).script
    exact canComplete_of_script asked starts script (fun tr => (canSend tr).1) (List.forall_mem_singleton.mpr (taken canSend))
  · obtain ⟨ok, _, shadow, takes⟩ := completed_one asked one runs k
    rw [shadow, takes]
    exact lockstep_shadowAfter one ok (shadowOk asked.1).2 premise lockstep

/-! ## Where lockstep is lost (R233, U4) -/

/-- With the entry-mode shift bit set nothing is assumed of the display shift after a data transfer (D24). -/
theorem not_lockstep_afterTransfer {S S' : DisplayState} {k : AssumedController} (lockstep : Lockstep S k)
    (set : S.shiftType = .cursorAndDisplay) : ¬ Lockstep S' k.afterTransfer := by
  rintro ⟨_, _, _, _, offset, _⟩
  obtain ⟨_, _, shift, _⟩ := lockstep
  simp only [AssumedController.afterTransfer, AssumedController.offsetAfterTransfer, shift, set] at offset
  cases offset

/-- An instruction requested by itself that leaves the block running has delivered its Command. -/
theorem delivered_of_exec {s t : State} {i : Instr} {c : Command} (encodes : encodeCommand i = .ok c)
    (next : exec i s = .next t) (running : t.fatal = none) : t.S = s.S ∧ t.delivered = s.delivered ++ [c] := by
  rw [exec_eq_deliver, encodes] at next
  obtain ⟨before, ⟨e, error, _⟩ | ⟨d, _, halted, _⟩ | ⟨d, same, completes, rfl⟩⟩ := deliver_next_cases next
  · cases error
  · exact absurd running halted
  · cases same
    exact ⟨sendNow_S s.opening c, sendNow_delivered (s := s.opening) before completes⟩

theorem oneInstruction_of_isTransfer {o : Op} (transfer : isTransfer o = true) : oneInstruction o = true := by
  cases o <;> first | rfl | cases transfer

/-- Settles O56, hazard by hazard. -/
theorem shadowHazardsLoseLockstep : Obligations.ShadowHazardsLoseLockstep := by
  intro s k lockstep
  refine ⟨fun o t asked transfer set runs => ?_, fun t asked rtl kept runs => ?_, fun a t inRange ddram other next running => ?_,
    fun unknown => by cases unknown.1⟩
  · obtain ⟨_, running, _, takes⟩ := completed_one asked (oneInstruction_of_isTransfer transfer) runs k
    refine ⟨running, ?_⟩
    rw [takes]
    have same : k.take s.params (instrOf s.S o) = k.afterTransfer := by
      cases o <;> first | rfl | cases transfer
    rw [same]
    exact not_lockstep_afterTransfer lockstep set
  · obtain ⟨_, running, _, takes⟩ := completed_one asked rfl runs k
    refine ⟨running, ?_⟩
    rw [takes]
    rintro ⟨_, direction, _⟩
    obtain ⟨_, before, _⟩ := lockstep
    simp [instrOf, AssumedController.take, AssumedController.directionAfterClear, kept, before, rtl] at direction
  · have encodes : encodeCommand (.setDDRAM a) = .ok (instruction (BitVec.ofNat 8 (0x80 + a))) := encodeSetDDRAM_of_lt inRange
    obtain ⟨shadow, delivered⟩ := delivered_of_exec encodes next running
    refine ⟨shadow, ?_⟩
    rw [shadow, delivered, List.drop_left, takeAll_encoded encodes, takeAll_nil]
    rintro ⟨_, _, _, _, _, ac⟩
    exact other (Option.some.inj (ac ddram))

end Sys2Proof.Machine
end

section
/-! Timelines whose Commands the transport takes. -/
namespace Sys2Proof.Machine
open Sys2Proof.Claim

/-- The transport takes the Command of an item, if it has one. -/
def ItemTaken (p : Params) : Item → Prop
  | .event _ => True
  | .plain c => Takes p c
  | .polled c => Takes p c

theorem takes_of_items {p : Params} {items : List Item} (taken : ∀ item ∈ items, ItemTaken p item) :
    ∀ c ∈ commandsOf items, Takes p c := by
  induction items with
  | nil => exact List.forall_mem_nil _
  | cons item items ih =>
    obtain ⟨first, rest⟩ := List.forall_mem_cons.mp taken
    cases item with
    | event c => exact ih rest
    | plain c => exact List.forall_mem_cons.mpr ⟨first, ih rest⟩
    | polled c => exact List.forall_mem_cons.mpr ⟨first, ih rest⟩

theorem commandsOf_flatMap {α : Type} (f : α → List Item) (xs : List α) :
    commandsOf (xs.flatMap f) = xs.flatMap fun x => commandsOf (f x) := by
  induction xs with
  | nil => rfl
  | cons x xs ih => rw [List.flatMap_cons, List.flatMap_cons, commandsOf_append, ih]

theorem commandsOf_flatten (xs : List (List Item)) : commandsOf xs.flatten = (xs.map commandsOf).flatten := by
  induction xs with
  | nil => rfl
  | cons x xs ih => rw [List.flatten_cons, List.map_cons, List.flatten_cons, commandsOf_append, ih]

theorem forall_mem_flatten_replicate {α : Type} {q : α → Prop} {xs : List α} (n : Nat) (each : ∀ x ∈ xs, q x) :
    ∀ x ∈ (List.replicate n xs).flatten, q x := by
  intro x mem
  obtain ⟨ys, listed, inside⟩ := List.mem_flatten.mp mem
  obtain ⟨_, rfl⟩ := List.mem_replicate.mp listed
  exact each x inside

end Sys2Proof.Machine
end

section
/-! Typewriter (R171). -/
namespace Sys2Proof.Machine
open Sys2Proof.Claim

/-- The shadow with the cursor some steps on (R133). -/
def walked (S : DisplayState) (n : Nat) : DisplayState := { S with cursorPos := cellAt S n }

theorem starts_typewriter {p : Params} {S : DisplayState} (ddram : S.ramType = .ddram) (text : List Char) (d : Nat) :
    Starts p S (.typewriter text d) S (text.flatMap fun ch => [event (.delayUs d), .call (.writeCharToCur ch)]) := by
  rintro s rfl rfl
  rw [startOp, startTypewriter, requireDdram_of_ddram ddram]
  rfl

theorem script_typewriter {p : Params} {S : DisplayState} (ddram : S.ramType = .ddram) (text : List Char) (d : Nat) :
    Script p S (text.flatMap fun ch => [event (.delayUs d), .call (.writeCharToCur ch)]) (typewriterItems text d)
      (walked S text.length) := by
  induction text generalizing S with
  | nil => exact .done S
  | cons ch text ih =>
    exact .event _ rfl (.silent (expands_call (starts_writeCharToCur ddram ch)) (script_write ddram (ih ddram)))

theorem commandsOf_typewriterItems (text : List Char) (d : Nat) :
    commandsOf (typewriterItems text d) = text.map fun ch => dataWrite (charByte ch) := by
  rw [typewriterItems, commandsOf_flatMap, List.map_eq_flatMap]
  rfl

/-- Settles O49, from the script of the text. -/
theorem typewriterWritesItsText : Obligations.TypewriterWritesItsText := by
  intro s text d asked ddram canSend
  refine ⟨canComplete_of_script asked (starts_typewriter ddram text d) (script_typewriter ddram text d)
    (fun tr => (canSend tr).1) ?_, fun t runs => ?_⟩
  · rw [commandsOf_typewriterItems, List.forall_mem_map]
    exact fun ch _ => takes_dataWrite _ _
  · have outcome := outcome_of_script asked (starts_typewriter ddram text d) (script_typewriter ddram text d) runs
    exact ⟨outcome.shadow, outcome.sent.trans (commandsOf_typewriterItems text d)⟩

end Sys2Proof.Machine
end

section
/-! Glyph programming (R158). -/
namespace Sys2Proof.Machine
open Sys2Proof.Claim

/-- The Entry mode set that forces a direction, where the configured one is right-to-left. -/
def forcedItems (S : DisplayState) (d : Direction) : List Item :=
  if S.direction = .rightToLeft then [.polled (instruction (entryModeByte { S with direction := d }))] else []

/-- The timeline of glyph programming (R158). -/
def glyphItems (S : DisplayState) (index : Nat) (rows : List Byte) : List Item :=
  forcedItems S .leftToRight ++ .polled (instruction (BitVec.ofNat 8 (0x40 + slotBase index)))
    :: rows.map (fun r => .polled (dataWrite r)) ++ forcedItems S .rightToLeft

theorem script_rows {p : Params} (S : DisplayState) (rows : List Byte) :
    Script p S (rows.map fun r => .waitIdle (encodeWriteDataToRAM r)) (rows.map fun r => .polled (dataWrite r)) S := by
  induction rows with
  | nil => exact .done S
  | cons r rows ih => exact .polled _ (dataWrite_ne_busyRead r) ih

theorem starts_writeGraphToCgram {p : Params} {S : DisplayState} {index : Nat} {rows : Vector Byte 8} (inRange : index ≤ 7)
    (good : badRow 0 rows.toList = none) :
    Starts p S (.writeGraphToCgram index rows) S
      (forceDirection S.direction .leftToRight ++ [.call (.setCgramAddr (slotBase index))]
        ++ rows.toList.map (fun r => .waitIdle (encodeWriteDataToRAM r)) ++ forceDirection S.direction .rightToLeft) := by
  rintro s rfl rfl
  simp only [startOp, startWriteGraphToCgram, inRange, not_true_eq_false, if_false, good]
  rfl

theorem script_glyph {p : Params} (S : DisplayState) {index : Nat} (rows : List Byte) (inRange : index ≤ 7) :
    Script p S
      (forceDirection S.direction .leftToRight ++ [.call (.setCgramAddr (slotBase index))]
        ++ rows.map (fun r => .waitIdle (encodeWriteDataToRAM r)) ++ forceDirection S.direction .rightToLeft)
      (glyphItems S index rows) { S with ramType := .cgram } := by
  have slot : slotBase index < 64 := by unfold slotBase; omega
  have burst (S : DisplayState) : Script p S
      ([.call (.setCgramAddr (slotBase index))] ++ rows.map (fun r => .waitIdle (encodeWriteDataToRAM r)))
      (.polled (instruction (BitVec.ofNat 8 (0x40 + slotBase index))) :: rows.map (fun r => .polled (dataWrite r)))
      { S with ramType := .cgram } := script_call (starts_setCgramAddr slot) (script_rows _ rows)
  obtain ⟨width, line, font, display, cursor, blink, direction, shift, pos, offset, ram, light⟩ := S
  rw [List.append_assoc (forceDirection direction .leftToRight)]
  cases direction with
  | leftToRight =>
    rw [glyphItems, forcedItems, forcedItems, if_neg Direction.noConfusion, if_neg Direction.noConfusion, List.append_nil,
      forceDirection, forceDirection, List.append_nil]
    exact burst _
  | rightToLeft =>
    exact script_append (script_append (script_call (starts_setDirection p _ .leftToRight) (.done _)) (burst _))
      (script_call (starts_setDirection p _ .rightToLeft) (.done _))

theorem glyphItems_taken (p : Params) (S : DisplayState) {index : Nat} (inRange : index ≤ 7) (rows : List Byte) :
    ∀ item ∈ glyphItems S index rows, ItemTaken p item := by
  have forced (d : Direction) : ∀ item ∈ forcedItems S d, ItemTaken p item := by
    unfold forcedItems
    split
    · exact List.forall_mem_singleton.mpr (takes_entryMode p _)
    · exact List.forall_mem_nil _
  have slot : ItemTaken p (.polled (instruction (BitVec.ofNat 8 (0x40 + slotBase index)))) := by
    refine takes_instruction fun _ => ?_
    rw [BitVec.toNat_ofNat, slotBase, Nat.mod_eq_of_lt (by omega)]
    omega
  refine List.forall_mem_append.mpr ⟨List.forall_mem_append.mpr ⟨forced _, List.forall_mem_cons.mpr ⟨slot, ?_⟩⟩, forced _⟩
  rw [List.forall_mem_map]
  exact fun r _ => takes_dataWrite p r

theorem commandsOf_glyphItems (S : DisplayState) (index : Nat) (rows : List Byte) :
    commandsOf (glyphItems S index rows)
      = (if S.direction = .rightToLeft then [instruction (entryModeByte { S with direction := .leftToRight })] else [])
        ++ [instruction (BitVec.ofNat 8 (0x40 + 8 * index))] ++ rows.map dataWrite
        ++ (if S.direction = .rightToLeft then [instruction (entryModeByte S)] else []) := by
  have listed : commandsOf (rows.map fun r => Item.polled (dataWrite r)) = rows.map dataWrite := by
    induction rows with
    | nil => rfl
    | cons r rows ih => rw [List.map_cons, commandsOf, ih, List.map_cons]
  rw [glyphItems, commandsOf_append, commandsOf_append, commandsOf, listed, forcedItems, forcedItems]
  cases rtl : S.direction with
  | leftToRight => rfl
  | rightToLeft =>
    have same : entryModeByte { S with direction := .rightToLeft } = entryModeByte S := by rw [entryModeByte, entryModeByte, rtl]
    rw [if_pos rfl, if_pos rfl, if_pos rfl, if_pos rfl, same]
    rfl

/-- Settles O46, from the script of the burst. -/
theorem glyphProgrammingRestoresTheDirection : Obligations.GlyphProgrammingRestoresTheDirection := by
  intro s index rows asked inRange good canSend
  have passed : badRow 0 rows.toList = none := by
    refine badRow_of_good 0 fun r mem => ?_
    obtain ⟨j, below, rfl⟩ := List.mem_iff_getElem.mp mem
    rw [Vector.length_toList] at below
    exact good ⟨j, below⟩
  have starts := starts_writeGraphToCgram (p := s.params) (S := s.S) inRange passed
  have script := script_glyph (p := s.params) s.S rows.toList inRange
  refine ⟨canComplete_of_script asked starts script (fun tr => (canSend tr).1)
    (takes_of_items (glyphItems_taken _ _ inRange _)), fun t runs => ?_⟩
  have outcome := outcome_of_script asked starts script runs
  exact ⟨outcome.shadow, outcome.sent.trans (commandsOf_glyphItems _ _ _)⟩

end Sys2Proof.Machine
end

section
/-! Counted blink (R183). -/
namespace Sys2Proof.Machine
open Sys2Proof.Claim

theorem starts_fullDisplayBlink (p : Params) (S : DisplayState) {count : Nat} (counted : 0 < count) (interval : Nat) :
    Starts p S (.fullDisplayBlink count interval) S [.blink (some (2 * count)) interval] := by
  rintro s rfl rfl
  rw [startOp, startFullDisplayBlink, if_neg (by omega)]
  rfl

theorem expands_blink (p : Params) (S : DisplayState) (left : Option Nat) (interval : Nat) :
    Expands p S (.blink left interval) S (blinkActions left interval) := by
  refine ⟨fun _ => Micro.noConfusion, ?_⟩
  rintro s rfl rfl
  exact ⟨s.result, rfl⟩

/-- The shadow with the display toggled (R183). -/
def displayToggled (S : DisplayState) : DisplayState := { S with displayOn := toggled S.displayOn }

theorem displayToggled_twice (S : DisplayState) : displayToggled (displayToggled S) = S := by
  obtain ⟨_, _, _, display⟩ := S
  cases display <;> rfl

theorem expands_toggle (p : Params) (S : DisplayState) :
    Expands p S .toggle (displayToggled S) [.waitIdle (instruction (displayControlByte (displayToggled S)))] := by
  refine ⟨fun _ => Micro.noConfusion, ?_⟩
  rintro s rfl rfl
  obtain ⟨r, becomes⟩ := (expands_call (starts_setDisplayOn s.params s.S (toggled s.S.displayOn))).2 s rfl rfl
  exact ⟨r, becomes⟩

theorem script_toggle {p : Params} {S S' : DisplayState} {left interval : Nat} {items : List Item}
    (more : Script p (displayToggled S) [.blink (some left) interval] items S') :
    Script p S [.blink (some (left + 1)) interval]
      (.event (.delayUs interval) :: .polled (instruction (displayControlByte (displayToggled S))) :: items) S' :=
  .silent (expands_blink p S (some (left + 1)) interval)
    (.event _ rfl (.silent (expands_toggle p S) (.polled _ (instruction_ne_busyRead _) more)))

theorem blinkItems_succ (S : DisplayState) (count interval : Nat) :
    blinkItems S (count + 1) interval
      = .event (.delayUs interval) :: .polled (instruction (displayControlByte (displayToggled S)))
        :: .event (.delayUs interval) :: .polled (instruction (displayControlByte S)) :: blinkItems S count interval := by
  obtain ⟨_, _, _, display⟩ := S
  cases display <;> rfl

theorem script_blink (p : Params) (S : DisplayState) (count interval : Nat) :
    Script p S [.blink (some (2 * count)) interval] (blinkItems S count interval) S := by
  induction count with
  | zero => exact .silent (expands_blink p S (some 0) interval) (.done S)
  | succ count ih =>
    rw [blinkItems_succ]
    have second := script_toggle (S := displayToggled S) (left := 2 * count) (by rw [displayToggled_twice]; exact ih)
    rw [displayToggled_twice] at second
    exact script_toggle second

/-- Settles O51, from the script of the toggles. -/
theorem countedBlinkRestoresTheDisplay : Obligations.CountedBlinkRestoresTheDisplay := by
  intro s count interval asked counted canSend
  have starts := starts_fullDisplayBlink s.params s.S counted interval
  have script := script_blink s.params s.S count interval
  refine ⟨canComplete_of_script asked starts script (fun tr => (canSend tr).1) (takes_of_items ?_), fun t runs => ?_⟩
  · refine forall_mem_flatten_replicate count fun item mem => ?_
    fin_cases mem
    · trivial
    · exact takes_displayControl _ _
    · trivial
    · exact takes_displayControl _ _
  · have outcome := outcome_of_script asked starts script runs
    refine ⟨outcome.shadow, outcome.sent.trans ?_⟩
    rw [blinkItems, commandsOf_flatten, List.map_replicate]
    rfl

end Sys2Proof.Machine
end

section
/-! Window shifts (R180). -/
namespace Sys2Proof.Machine
open Sys2Proof.Claim

theorem starts_shiftDisplayToPos {p : Params} {S : DisplayState} {target : Nat} (inRange : target < lineCapacity S.lineMode)
    (moves : target ≠ S.displayOffset) (strategy : Strategy) (during : Switch) (perStep : Nat) :
    Starts p S (.shiftDisplayToPos target strategy during perStep) S
      ([.call (.setDisplayOn during)]
        ++ (List.replicate (planShift p.offsetStepLtr S.lineMode S.displayOffset target strategy).1
            [event (.delayUs perStep), .call (.shiftCursorOrDisplay .cursorAndDisplay
              (planShift p.offsetStepLtr S.lineMode S.displayOffset target strategy).2)]).flatten
        ++ [.call (.setDisplayOn S.displayOn)]) := by
  rintro s rfl rfl
  rw [startOp, startShiftDisplayToPos, if_neg (not_not.mpr inRange), if_neg moves]
  rfl

/-- At the target already, nothing is left to do (R180). -/
theorem starts_shiftDisplayToPos_reached {p : Params} {S : DisplayState} {target : Nat}
    (inRange : target < lineCapacity S.lineMode) (reached : target = S.displayOffset) (strategy : Strategy) (during : Switch)
    (perStep : Nat) : Starts p S (.shiftDisplayToPos target strategy during perStep) S [] := by
  rintro s rfl rfl
  rw [startOp, startShiftDisplayToPos, if_neg (not_not.mpr inRange), if_pos reached]
  rfl

theorem script_shifts (p : Params) (S : DisplayState) (n : Nat) (d : Direction) (perStep : Nat) :
    Script p S
      (List.replicate n [event (.delayUs perStep), .call (.shiftCursorOrDisplay .cursorAndDisplay d)]).flatten
      (List.replicate n [.event (.delayUs perStep), .polled (instruction (shiftByte .cursorAndDisplay d))]).flatten
      { S with displayOffset := Nat.iterate (fun o => shiftOffset p.offsetStepLtr S.lineMode o d) n S.displayOffset } := by
  induction n generalizing S with
  | zero => exact .done S
  | succ n ih => exact .event _ rfl (script_call (starts_shiftDisplay p S d) (ih _))

theorem script_window (p : Params) (S : DisplayState) (n : Nat) (d : Direction) (during : Switch) (perStep : Nat) :
    Script p S
      ([.call (.setDisplayOn during)]
        ++ (List.replicate n [event (.delayUs perStep), .call (.shiftCursorOrDisplay .cursorAndDisplay d)]).flatten
        ++ [.call (.setDisplayOn S.displayOn)])
      (windowItems S during n d perStep)
      { S with displayOffset := Nat.iterate (fun o => shiftOffset p.offsetStepLtr S.lineMode o d) n S.displayOffset } :=
  script_append
    (script_append (script_call (starts_setDisplayOn p S during) (.done _)) (script_shifts p _ n d perStep))
    (script_call (starts_setDisplayOn p _ S.displayOn) (.done _))

theorem windowItems_taken (p : Params) (S : DisplayState) (during : Switch) (n : Nat) (d : Direction) (perStep : Nat) :
    ∀ item ∈ windowItems S during n d perStep, ItemTaken p item := by
  have shift : ∀ item ∈ [Item.event (.delayUs perStep), .polled (instruction (shiftByte .cursorAndDisplay d))],
      ItemTaken p item :=
    List.forall_mem_cons.mpr ⟨trivial, List.forall_mem_singleton.mpr (takes_shift p _ d)⟩
  exact List.forall_mem_append.mpr ⟨List.forall_mem_append.mpr
    ⟨List.forall_mem_singleton.mpr (takes_displayControl p _), forall_mem_flatten_replicate n shift⟩,
    List.forall_mem_singleton.mpr (takes_displayControl p _)⟩

/-- Settles O48: the plan's single steps add up to the target (`planShift_iterate`). -/
theorem windowShiftEndsAtItsTarget : Obligations.WindowShiftEndsAtItsTarget := by
  intro s target perStep strategy during asked inRange shadowOk canSend
  refine ⟨fun reached => ?_, fun moves => ?_⟩
  · exact step_of_asked_done asked
      (starts_shiftDisplayToPos_reached (p := s.params) inRange reached strategy during perStep).at_taking
  · have starts := starts_shiftDisplayToPos (p := s.params) inRange moves strategy during perStep
    have script := script_window s.params s.S (planShift s.params.offsetStepLtr s.S.lineMode s.S.displayOffset target strategy).1
      (planShift s.params.offsetStepLtr s.S.lineMode s.S.displayOffset target strategy).2 during perStep
    have valid : s.S.displayOffset < lineCapacity s.S.lineMode :=
      of_decide_eq_true (Bool.and_eq_true_iff.mp (shadowOk asked.1).2).2
    refine ⟨canComplete_of_script asked starts script (fun tr => (canSend tr).1) (takes_of_items (windowItems_taken _ _ _ _ _ _)),
      fun t runs => ?_⟩
    rw [(outcome_of_script asked starts script runs).shadow, planShift_iterate _ valid inRange]

end Sys2Proof.Machine
end

section
/-! Transfers at a position (R160, R161). -/
namespace Sys2Proof.Machine
open Sys2Proof.Claim

theorem setDdramByte_taken {p : Params} {m : LineMode} {pos : Pos} (valid : inBounds m pos = true) :
    Takes p (instruction (setDdramByte m pos)) := by
  refine takes_instruction fun _ => ?_
  rw [setDdramByte_eq, BitVec.toNat_ofNat, Nat.mod_eq_of_lt (by have := ddramAddr_lt valid; omega)]
  omega

theorem starts_readByteFromPos {p : Params} {S : DisplayState} {pos : Pos} (valid : inBounds S.lineMode pos = true) :
    Starts p S (.readByteFromPos pos) S
      [.call (.setCursorPos pos), .call .readU8FromCur, .call (.setCursorPos S.cursorPos)] := by
  rintro s rfl rfl
  rw [startOp, startReadByteFromPos, if_neg (not_not.mpr valid)]
  rfl

theorem starts_writeByteToPos {p : Params} {S : DisplayState} {pos : Pos} (valid : inBounds S.lineMode pos = true)
    (b : Byte) :
    Starts p S (.writeByteToPos pos b) S
      [.call (.setCursorPos pos), .call (.writeU8ToCur b), .call (.setCursorPos S.cursorPos)] := by
  rintro s rfl rfl
  rw [startOp, startWriteByteToPos, if_neg (not_not.mpr valid)]
  rfl

/-- A transfer of a Command at a position (R160, R161). -/
def positionalItems (S : DisplayState) (pos : Pos) (c : Command) : List Item :=
  [.polled (instruction (setDdramByte S.lineMode pos)), .polled c, .polled (instruction (setDdramByte S.lineMode S.cursorPos))]

section
variable {p : Params} {S : DisplayState} {pos : Pos}

/-- The way back from the position: the cursor is where it was. -/
theorem script_return (cursor : inBounds S.lineMode S.cursorPos = true) :
    Script p (stepped { S with cursorPos := pos, ramType := .ddram }) [.call (.setCursorPos S.cursorPos)]
      [.polled (instruction (setDdramByte S.lineMode S.cursorPos))] { S with ramType := .ddram } :=
  script_call (starts_setCursorPos (S := stepped { S with cursorPos := pos, ramType := .ddram }) cursor) (.done _)

theorem script_writeByteToPos (valid : inBounds S.lineMode pos = true) (cursor : inBounds S.lineMode S.cursorPos = true)
    (b : Byte) :
    Script p S [.call (.setCursorPos pos), .call (.writeU8ToCur b), .call (.setCursorPos S.cursorPos)]
      (positionalItems S pos (dataWrite b)) { S with ramType := .ddram } :=
  script_call (starts_setCursorPos valid) (script_write rfl (script_return cursor))

theorem script_readByteFromPos (valid : inBounds S.lineMode pos = true) (cursor : inBounds S.lineMode S.cursorPos = true) :
    Script p S [.call (.setCursorPos pos), .call .readU8FromCur, .call (.setCursorPos S.cursorPos)]
      (positionalItems S pos (readCommand .data)) { S with ramType := .ddram } :=
  script_call (starts_setCursorPos valid) (.silent (expands_call (starts_readU8FromCur rfl))
    (.polled _ dataRead_ne_busyRead
      (.silent (expands_stepCursor _ _) (.silent (expands_returnSent _ _) (script_return cursor)))))

theorem positionalItems_taken (valid : inBounds S.lineMode pos = true) (cursor : inBounds S.lineMode S.cursorPos = true)
    {c : Command} (taken : Takes p c) : ∀ d ∈ commandsOf (positionalItems S pos c), Takes p d :=
  List.forall_mem_cons.mpr ⟨setDdramByte_taken valid, List.forall_mem_cons.mpr ⟨taken,
    List.forall_mem_singleton.mpr (setDdramByte_taken cursor)⟩⟩

end

/-! ## The byte a positional read returns -/

/-- A nested operation of a running one. -/
theorem goes_call {s : State} {o : Op} {S : DisplayState} {ns : List Micro} (working : Working s) (ms : List Micro)
    (starts : Starts s.params s.S o S ns) : Goes 1 (s.push (.call o :: ms)) ((s.assign S).push (ns ++ ms)) := by
  have begins : (s.push ms).micro (.call o) = (s.assign S).push (ns ++ ms) := by
    show (s.push ms).begin o = _
    rw [State.begin, starts (s.push ms) rfl rfl]
    exact push_push (s.assign S) ms ns
  have := goes_push_cons working (.call o) ms
  rwa [begins] at this

/-- A nested operation has sent its one Command: the shadow is the operation's, the value returned is kept. -/
structure Sent (s : State) (S : DisplayState) (c : Command) (w : State) : Prop where
  advances : ∃ calls, Advances s calls (notReads [c]) w
  shadow : w.S = S
  result : w.result = s.result
  last : ∃ cs, w.delivered = s.delivered ++ cs ++ [c]
  read : ∀ rs, c = readCommand rs → ∃ b, w.sent = some b

theorem Sent.working {s w : State} {S : DisplayState} {c : Command} (sent : Sent s S c w) : Working w := by
  obtain ⟨_, advances⟩ := sent.advances
  exact advances.working

/-- A nested operation that sends one Command, in a run that ends. -/
theorem call_ends {k : Nat} {s t : State} {o : Op} {S : DisplayState} {c : Command} {ns ms : List Micro}
    (working : Working s) (starts : Starts s.params s.S o S (.waitIdle c :: ns))
    (whole : Goes k (s.push (.call o :: ms)) t) (ended : Ended t) :
    ∃ i j w, Goes i (s.push (.call o :: ms)) (w.push (ns ++ ms)) ∧ Goes j (w.push (ns ++ ms)) t ∧ Sent s S c w := by
  have begins := goes_call working ms starts
  obtain ⟨_, _, rest⟩ := goes_through whole ended begins
  obtain ⟨i, n, u, sends, completes, polls, shadow, result⟩ := poll_ends (s := s.assign S) (ms := ns ++ ms) working rest ended
  obtain ⟨j, _, rest'⟩ := stays_through rest ended sends
  obtain ⟨cs, polled, _⟩ := polls.delivered
  have advances := advances_trans (advances_silent working S s.result)
    (show Advances ((s.assign S).returning s.result) _ _ _ from
      advances_trans polls (advances_send polls.working completes))
  refine ⟨1 + i, j, u.sendNow c, goes_trans begins (goes_of_stays sends), rest', ⟨_, advances⟩, (sendNow_S u c).trans shadow,
    (sendNow_result u c).trans result, ⟨cs, ?_⟩, ?_⟩
  · rw [sendNow_delivered polls.running completes, polled]
    rfl
  · rintro rs rfl
    exact sent_of_read polls.running completes

/-- A read at a position returns the byte that its data read was answered (R160). -/
theorem readByteFromPos_returns {s t : State} {pos : Pos} (asked : Asked s (.readByteFromPos pos) [])
    (valid : inBounds s.S.lineMode pos = true) (cursor : inBounds s.S.lineMode s.S.cursorPos = true)
    (runs : RunsToIdle s t) :
    ∃ j u b, Runs j s u ∧ s.delivered.length < u.delivered.length ∧ u.delivered.getLast? = some (readCommand .data)
      ∧ u.sent = some b ∧ t.result = .byte b := by
  have starts := starts_readByteFromPos (p := s.params) valid
  obtain ⟨_, v, whole, ended, rfl⟩ := goes_of_runsToIdle asked starts runs
  have ⟨_, _, x, first, rest, atPos⟩ := call_ends (working_begun asked.1 s.S) (starts_setCursorPos valid) whole ended
  have ⟨_, _, y, second, rest, read⟩ := call_ends atPos.working (starts_readU8FromCur (by rw [atPos.shadow])) rest ended
  obtain ⟨b, sent⟩ := read.read .data rfl
  have stepping := goes_push_cons read.working .stepCursor [.returnSent, .call (.setCursorPos s.S.cursorPos)]
  obtain ⟨_, _, rest⟩ := goes_through rest ended stepping
  have returning := goes_push_cons (s := y.assign (stepped y.S)) read.working .returnSent [.call (.setCursorPos s.S.cursorPos)]
  obtain ⟨_, _, rest⟩ := goes_through rest ended returning
  have back : inBounds (stepped y.S).lineMode s.S.cursorPos = true := by
    rw [stepped, read.shadow, atPos.shadow]
    exact cursor
  have ⟨_, _, z, _, rest, home⟩ := call_ends (s := (y.assign (stepped y.S)).returning (resultOfSent y.sent)) (ms := [])
    read.working (starts_setCursorPos back) rest ended
  have last : v = z := by
    obtain ⟨_, to_x⟩ := atPos.advances
    obtain ⟨_, to_y⟩ := read.advances
    obtain ⟨_, to_z⟩ := home.advances
    have all := advances_trans (advances_trans to_x to_y)
      (advances_trans (advances_silent to_y.working (stepped y.S) (resultOfSent y.sent)) to_z)
    obtain ⟨_, n, _, st, _, hq, hq'⟩ := all.seq
    cases hq
    rw [List.nil_append, push_nil] at rest
    cases rest with
    | stay => rfl
    | act _ left _ => rw [hq'] at left; cases left
  have here := goes_trans first second
  rw [← begun_eq_push] at here
  obtain ⟨_, n, st, left, hq⟩ := read.working
  obtain ⟨cs, before⟩ := atPos.last
  obtain ⟨ds, delivered⟩ := read.last
  refine ⟨_, _, b, runs_succ (step_of_asked_begun asked starts.at_taking) (runs_of_goes_unsettled here
    (.inr ⟨n, st, .stepCursor, _, by rw [push_seq, hq]; rfl⟩)), ?_, ?_, sent, ?_⟩
  · show s.delivered.length < y.delivered.length
    rw [delivered, before]
    simp [State.begun, begun]
  · show y.delivered.getLast? = _
    rw [delivered, List.getLast?_append]
    rfl
  · show v.result = _
    rw [last, home.result]
    show resultOfSent y.sent = _
    rw [sent]
    rfl

/-- Settles O47, from the scripts of the two transfers and the value the read returns. -/
theorem positionalTransfersRestoreTheCursor : Obligations.PositionalTransfersRestoreTheCursor := by
  intro s pos valid shadowOk canSend
  refine ⟨fun asked => ?_, fun b asked => ?_⟩ <;>
    have cursor : inBounds s.S.lineMode s.S.cursorPos = true := (Bool.and_eq_true_iff.mp (shadowOk asked.1).2).1
  · have starts := starts_readByteFromPos (p := s.params) valid
    have script := script_readByteFromPos (p := s.params) valid cursor
    refine ⟨canComplete_of_script asked starts script (fun tr => (canSend tr).1)
      (positionalItems_taken valid cursor (takes_dataRead _)), fun t runs => ?_⟩
    have outcome := outcome_of_script asked starts script runs
    exact ⟨outcome.shadow, readByteFromPos_returns asked valid cursor runs, outcome.sent⟩
  · have starts := starts_writeByteToPos (p := s.params) valid b
    have script := script_writeByteToPos (p := s.params) valid cursor b
    refine ⟨canComplete_of_script asked starts script (fun tr => (canSend tr).1)
      (positionalItems_taken valid cursor (takes_dataWrite _ b)), fun t runs => ?_⟩
    have outcome := outcome_of_script asked starts script runs
    exact ⟨outcome.shadow, outcome.sent⟩

end Sys2Proof.Machine
end

section
/-! The cells and codes of the split-flaps (R173, R174, R176), in the words of the statements. -/
namespace Sys2Proof.Machine
open Sys2Proof.Claim

theorem inBounds_cellAt {S : DisplayState} (valid : inBounds S.lineMode S.cursorPos = true) (n : Nat) :
    inBounds S.lineMode (cellAt S n) = true := by
  induction n with
  | zero => exact valid
  | succ n ih =>
    rw [cellAt, Function.iterate_succ_apply']
    exact inBounds_stepPos ih S.direction

theorem flapCells_cons (S : DisplayState) (ch : Char) (text : List Char) :
    flapCells S (ch :: text) = (S.cursorPos, ch.toNat) :: flapCells (stepped S) text := by
  rw [flapCells, List.zipIdx_cons, List.map_cons, List.zipIdx_succ, List.map_map]
  rfl

theorem cellsOf_eq_flapCells (S : DisplayState) (text : List Char) :
    cellsOf S.lineMode S.direction text S.cursorPos = flapCells S text := by
  induction text generalizing S with
  | nil => rfl
  | cons ch text ih =>
    rw [flapCells_cons, ← ih (stepped S)]
    rfl

theorem stepPosN_eq_cellAt (S : DisplayState) (n : Nat) :
    stepPosN S.lineMode S.direction n S.cursorPos = cellAt S n := by
  induction n generalizing S with
  | zero => rfl
  | succ n ih => exact ih (stepped S)

theorem ascending_eq_codes (lo hi : Nat) : ascending lo hi = codes lo hi := by
  rw [ascending, codes, List.range'_eq_map_range]

theorem minCode_eq_foldl (text : List Char) (n : Nat) : minCode text n = text.foldl (fun n x => min n x.toNat) n := by
  induction text generalizing n with
  | nil => rfl
  | cons ch text ih => exact ih _

theorem maxCode_eq_foldl (text : List Char) (n : Nat) : maxCode text n = text.foldl (fun n x => max n x.toNat) n := by
  induction text generalizing n with
  | nil => rfl
  | cons ch text ih => exact ih _

/-- The start byte of a printable character is not above it (R173). -/
theorem startByte_le {t : Nat} (printable : 0x20 ≤ t) (m : Option Nat) : startByte t m ≤ t := by
  cases m with
  | none => exact printable
  | some m => exact max_le printable (Nat.sub_le t m)

theorem inBounds_of_mem_flapCells {S : DisplayState} (valid : inBounds S.lineMode S.cursorPos = true) (text : List Char) :
    ∀ cell ∈ flapCells S text, inBounds S.lineMode cell.1 = true := by
  rw [flapCells, List.forall_mem_map]
  exact fun x _ => inBounds_cellAt valid x.2

end Sys2Proof.Machine
end

section
/-! The scripts of the split-flaps (R174 to R176). -/
namespace Sys2Proof.Machine
open Sys2Proof.Claim

/-- The shadow with the cursor somewhere else. -/
def cursorAt (S : DisplayState) (pos : Pos) : DisplayState := { S with cursorPos := pos }

/-- The shadow with another cursor visibility (R145). -/
def withCursor (S : DisplayState) (v : Switch) : DisplayState := { S with cursorOn := v }

section
variable {p : Params} {S : DisplayState}

/-- In DDRAM space `set_cursor_pos` changes the cursor only. -/
theorem starts_setCursorPos_of_ddram (ddram : S.ramType = .ddram) {pos : Pos} (valid : inBounds S.lineMode pos = true) :
    Starts p S (.setCursorPos pos) (cursorAt S pos) [.waitIdle (instruction (setDdramByte S.lineMode pos))] := by
  have same : cursorAt S pos = { S with cursorPos := pos, ramType := .ddram } := by rw [cursorAt, ← ddram]
  rw [same]
  exact starts_setCursorPos valid

/-- The effect between the hidden and the restored cursor (R175). -/
theorem script_hidingCursor {effect : List Micro} {items : List Item} {n : Nat}
    (hidden : Script p (withCursor S .off) effect items (walked (withCursor S .off) n)) :
    Script p S (hidingCursor S effect) ([cursorItem S .off] ++ items ++ [cursorItem S S.cursorOn]) (walked S n) :=
  script_append (script_append (script_call (starts_setCursorOn p S .off) (.done _)) hidden)
    (script_call (starts_setCursorOn p _ S.cursorOn) (.done _))

/-! ## Sequential -/

/-- One flip of a cell (R174). -/
def oneFlip (cell : Pos) (target perFlip b : Nat) : List Micro :=
  [event (.delayUs perFlip), .call (.writeU8ToCur (BitVec.ofNat 8 b))]
    ++ (if b < target then [.call (.setCursorPos cell)] else [])

def oneFlipItems (m : LineMode) (cell : Pos × Nat) (perFlip b : Nat) : List Item :=
  [.event (.delayUs perFlip), .polled (dataWrite (BitVec.ofNat 8 b))]
    ++ if b < cell.2 then [.polled (instruction (setDdramByte m cell.1))] else []

theorem flipActions_eq (cell : Pos) (target : Nat) (m : Option Nat) (perFlip : Nat) :
    flipActions cell target m perFlip = (codes (startByte target m) target).flatMap (oneFlip cell target perFlip) := by
  rw [flipActions, ascending_eq_codes]
  rfl

/-- A flip below the target writes and comes back to the cell. -/
theorem script_flip_back (ddram : S.ramType = .ddram) (cursor : inBounds S.lineMode S.cursorPos = true) (perFlip b : Nat)
    {target : Nat} (below : b < target) :
    Script p S (oneFlip S.cursorPos target perFlip b) (oneFlipItems S.lineMode (S.cursorPos, target) perFlip b) S := by
  rw [oneFlip, oneFlipItems, if_pos below, if_pos below]
  exact .event _ rfl (script_write ddram
    (script_call (starts_setCursorPos_of_ddram (S := stepped S) ddram cursor) (.done _)))

/-- The flip of the target writes and goes on. -/
theorem script_flip_last (ddram : S.ramType = .ddram) (perFlip target : Nat) :
    Script p S (oneFlip S.cursorPos target perFlip target) (oneFlipItems S.lineMode (S.cursorPos, target) perFlip target)
      (stepped S) := by
  rw [oneFlip, oneFlipItems, if_neg (lt_irrefl _), if_neg (lt_irrefl _)]
  exact .event _ rfl (script_write ddram (.done _))

/-- All the flips of the cursor's cell, from any code up to the target. -/
theorem script_flips (ddram : S.ramType = .ddram) (cursor : inBounds S.lineMode S.cursorPos = true) (perFlip target : Nat)
    {lo : Nat} (le : lo ≤ target) :
    Script p S ((codes lo target).flatMap (oneFlip S.cursorPos target perFlip))
      ((codes lo target).flatMap (oneFlipItems S.lineMode (S.cursorPos, target) perFlip)) (stepped S) := by
  induction le using Nat.decreasingInduction with
  | self =>
    rw [codes, Nat.add_sub_cancel_left, List.range'_one, List.flatMap_singleton, List.flatMap_singleton]
    exact script_flip_last ddram perFlip target
  | of_succ lo below ih =>
    have first : codes lo target = lo :: codes (lo + 1) target := by
      rw [codes, codes, show target + 1 - lo = target + 1 - (lo + 1) + 1 by omega, List.range'_succ]
    rw [first, List.flatMap_cons, List.flatMap_cons]
    exact script_append (script_flip_back ddram cursor perFlip lo below) ih

theorem expands_flips (target : Nat) (m : Option Nat) (perFlip : Nat) :
    Expands p S (.flips target m perFlip) S (flipActions S.cursorPos target m perFlip) := by
  refine ⟨fun _ => Micro.noConfusion, ?_⟩
  rintro s rfl rfl
  exact ⟨s.result, rfl⟩

/-- The cells of a printable text one after the other (R174). -/
theorem script_sequential_cells (ddram : S.ramType = .ddram) (cursor : inBounds S.lineMode S.cursorPos = true)
    {text : List Char} (printable : ∀ ch ∈ text, 0x20 ≤ ch.toNat) (m : Option Nat) (perFlip perChar : Nat) :
    Script p S (text.flatMap fun ch => [event (.delayUs perChar), .flips ch.toNat m perFlip])
      ((flapCells S text).flatMap fun cell => .event (.delayUs perChar) :: flipItems S m perFlip cell)
      (walked S text.length) := by
  induction text generalizing S with
  | nil => exact .done S
  | cons ch text ih =>
    obtain ⟨first, rest⟩ := List.forall_mem_cons.mp printable
    have flips := script_flips (p := p) ddram cursor perFlip ch.toNat (startByte_le first m)
    rw [← flipActions_eq] at flips
    rw [flapCells_cons, List.flatMap_cons, List.flatMap_cons]
    refine .event _ rfl (.silent (expands_flips _ _ _) ?_)
    exact script_append flips (ih (S := stepped S) ddram (inBounds_stepPos cursor S.direction) rest)

theorem script_sequential (ddram : S.ramType = .ddram) (cursor : inBounds S.lineMode S.cursorPos = true)
    {text : List Char} (printable : ∀ ch ∈ text, 0x20 ≤ ch.toNat) (m : Option Nat) (perFlip perChar : Nat) :
    Script p S (hidingCursor S (text.flatMap fun ch => [event (.delayUs perChar), .flips ch.toNat m perFlip]))
      (sequentialItems S text m perFlip perChar) (walked S text.length) :=
  script_hidingCursor (script_sequential_cells (S := withCursor S .off) ddram cursor printable m perFlip perChar)

/-! ## Simultaneous -/

/-- One code into some cells (R176). -/
theorem script_scan_cells (ddram : S.ramType = .ddram) {cells : List (Pos × Nat)}
    (valid : ∀ cell ∈ cells, inBounds S.lineMode cell.1 = true) (b : Byte) (pos : Pos) :
    ∃ pos', Script p (cursorAt S pos)
      (cells.flatMap fun cell => [.call (.setCursorPos cell.1), .call (.writeU8ToCur b)])
      (cells.flatMap fun cell => [.polled (instruction (setDdramByte S.lineMode cell.1)), .polled (dataWrite b)])
      (cursorAt S pos') := by
  induction cells generalizing pos with
  | nil => exact ⟨pos, .done _⟩
  | cons cell cells ih =>
    obtain ⟨first, rest⟩ := List.forall_mem_cons.mp valid
    obtain ⟨pos', scanned⟩ := ih rest (stepPos S.lineMode cell.1 S.direction)
    exact ⟨pos', script_call (starts_setCursorPos_of_ddram (S := cursorAt S pos) ddram first)
      (script_write (S := cursorAt S cell.1) ddram scanned)⟩

/-- The shared scan over some codes (R176). -/
theorem script_scan (ddram : S.ramType = .ddram) {cells : List (Pos × Nat)}
    (valid : ∀ cell ∈ cells, inBounds S.lineMode cell.1 = true) (perFlip : Nat) (bs : List Nat) (pos : Pos) :
    ∃ pos', Script p (cursorAt S pos) (bs.flatMap fun b => scanStep cells b perFlip) (bs.flatMap (scanItems S cells perFlip))
      (cursorAt S pos') := by
  induction bs generalizing pos with
  | nil => exact ⟨pos, .done _⟩
  | cons b bs ih =>
    obtain ⟨pos', first⟩ := script_scan_cells (p := p) ddram (cells := cells.filter fun cell => decide (b ≤ cell.2))
      (fun cell mem => valid cell (List.mem_filter.mp mem).1) (BitVec.ofNat 8 b) pos
    obtain ⟨pos'', rest⟩ := ih pos'
    exact ⟨pos'', script_append (script_append first (.event _ rfl (.done _))) rest⟩

/-- The actions of the simultaneous split-flap (R176). -/
def simultaneousActions (S : DisplayState) (text : List Char) (m : Option Nat) (perFlip : Nat) : List Micro :=
  match text with
  | [] => []
  | ch :: more =>
    hidingCursor S
      ((ascending (startByte (minCode more ch.toNat) m) (maxCode more ch.toNat)).flatMap
          (fun b => scanStep (cellsOf S.lineMode S.direction text S.cursorPos) b perFlip)
        ++ [.call (.setCursorPos (stepPosN S.lineMode S.direction text.length S.cursorPos))])

theorem script_simultaneous (ddram : S.ramType = .ddram) (cursor : inBounds S.lineMode S.cursorPos = true)
    (text : List Char) (m : Option Nat) (perFlip : Nat) :
    Script p S (simultaneousActions S text m perFlip) (simultaneousItems S text m perFlip) (walked S text.length) := by
  cases text with
  | nil => exact .done S
  | cons ch more =>
    rw [simultaneousActions, cellsOf_eq_flapCells, stepPosN_eq_cellAt, ascending_eq_codes, minCode_eq_foldl, maxCode_eq_foldl]
    obtain ⟨pos, scanned⟩ := script_scan (p := p) (S := withCursor S .off) ddram
      (inBounds_of_mem_flapCells cursor (ch :: more)) perFlip
      (codes (startByte (more.foldl (fun n x => min n x.toNat) ch.toNat) m) (more.foldl (fun n x => max n x.toNat) ch.toNat))
      S.cursorPos
    have home := starts_setCursorPos_of_ddram (p := p) (S := cursorAt (withCursor S .off) pos) ddram
      (inBounds_cellAt cursor (ch :: more).length)
    have whole := script_hidingCursor (S := S) (n := (ch :: more).length) (script_append scanned (script_call home (.done _)))
    have items : simultaneousItems S (ch :: more) m perFlip
        = [cursorItem S .off] ++ ((codes (startByte (more.foldl (fun n x => min n x.toNat) ch.toNat) m)
              (more.foldl (fun n x => max n x.toNat) ch.toNat)).flatMap (scanItems S (flapCells S (ch :: more)) perFlip)
            ++ [.polled (instruction (setDdramByte S.lineMode (cellAt S (ch :: more).length)))])
          ++ [cursorItem S S.cursorOn] := by
      simp [simultaneousItems]
    rw [items]
    exact whole

end

end Sys2Proof.Machine
end

section
/-! The split-flaps and the other macros, requested (R170 to R183). -/
namespace Sys2Proof.Machine
open Sys2Proof.Claim

/-- The checks of R172 pass for a printable text in DDRAM space only. -/
theorem splitFlapError_eq_none_iff {text : List Char} {S : DisplayState} :
    splitFlapError text S = none ↔ (∀ ch ∈ text, 0x20 ≤ ch.toNat ∧ ch.toNat ≤ 0x7D) ∧ S.ramType = .ddram := by
  constructor
  · intro passes
    unfold splitFlapError at passes
    split at passes
    · cases passes
    · next found =>
      split at passes
      · next ddram =>
        refine ⟨fun ch mem => ?_, ddram⟩
        have := List.find?_eq_none.mp found ch mem
        rw [← flapPrintable_iff]
        simpa using this
      · cases passes
  · rintro ⟨printable, ddram⟩
    rw [splitFlapError_of_printable S printable, if_pos ddram]

theorem starts_splitFlapSequential {p : Params} {S : DisplayState} {text : List Char} (passes : splitFlapError text S = none)
    (m : Option Nat) (perFlip perChar : Nat) :
    Starts p S (.splitFlapSequential text m perFlip (some perChar)) S
      (hidingCursor S (text.flatMap fun ch => [event (.delayUs perChar), .flips ch.toNat m perFlip])) := by
  rintro s rfl rfl
  simp only [startOp, startSplitFlapSequential, passes]
  rfl

theorem starts_splitFlapSimultaneous {p : Params} {S : DisplayState} {text : List Char}
    (passes : splitFlapError text S = none) (m : Option Nat) (perFlip : Nat) :
    Starts p S (.splitFlapSimultaneous text m perFlip) S (simultaneousActions S text m perFlip) := by
  rintro s rfl rfl
  simp only [startOp, startSplitFlapSimultaneous, passes]
  cases text <;> rfl

section
variable (p : Params) {S : DisplayState}

theorem hidden_taken {items : List Item} (taken : ∀ item ∈ items, ItemTaken p item) (v w : Switch) :
    ∀ item ∈ [cursorItem S v] ++ items ++ [cursorItem S w], ItemTaken p item :=
  List.forall_mem_append.mpr ⟨List.forall_mem_append.mpr
    ⟨List.forall_mem_singleton.mpr (takes_displayControl p _), taken⟩, List.forall_mem_singleton.mpr (takes_displayControl p _)⟩

theorem oneFlipItems_taken {cell : Pos × Nat} (valid : inBounds S.lineMode cell.1 = true) (perFlip b : Nat) :
    ∀ item ∈ oneFlipItems S.lineMode cell perFlip b, ItemTaken p item := by
  refine List.forall_mem_append.mpr
    ⟨List.forall_mem_cons.mpr ⟨trivial, List.forall_mem_singleton.mpr (takes_dataWrite p _)⟩, ?_⟩
  split
  · exact List.forall_mem_singleton.mpr (setDdramByte_taken valid)
  · exact List.forall_mem_nil _

theorem sequentialItems_taken (cursor : inBounds S.lineMode S.cursorPos = true) (text : List Char) (m : Option Nat)
    (perFlip perChar : Nat) : ∀ item ∈ sequentialItems S text m perFlip perChar, ItemTaken p item := by
  refine hidden_taken p ?_ .off S.cursorOn
  rw [List.forall_mem_flatMap]
  intro cell mem
  refine List.forall_mem_cons.mpr ⟨trivial, ?_⟩
  show ∀ item ∈ (codes (startByte cell.2 m) cell.2).flatMap (oneFlipItems S.lineMode cell perFlip), ItemTaken p item
  rw [List.forall_mem_flatMap]
  exact fun b _ => oneFlipItems_taken p (inBounds_of_mem_flapCells cursor text cell mem) perFlip b

theorem scanItems_taken {cells : List (Pos × Nat)} (valid : ∀ cell ∈ cells, inBounds S.lineMode cell.1 = true)
    (perFlip b : Nat) : ∀ item ∈ scanItems S cells perFlip b, ItemTaken p item := by
  refine List.forall_mem_append.mpr ⟨?_, List.forall_mem_singleton.mpr trivial⟩
  rw [List.forall_mem_flatMap]
  intro cell mem
  exact List.forall_mem_cons.mpr ⟨setDdramByte_taken (valid cell (List.mem_filter.mp mem).1),
    List.forall_mem_singleton.mpr (takes_dataWrite p _)⟩

theorem simultaneousItems_taken (cursor : inBounds S.lineMode S.cursorPos = true) (text : List Char) (m : Option Nat)
    (perFlip : Nat) : ∀ item ∈ simultaneousItems S text m perFlip, ItemTaken p item := by
  cases text with
  | nil => exact List.forall_mem_nil _
  | cons ch more =>
    refine List.forall_mem_append.mpr ⟨List.forall_mem_append.mpr
      ⟨List.forall_mem_singleton.mpr (takes_displayControl p _), ?_⟩, List.forall_mem_cons.mpr
        ⟨setDdramByte_taken (inBounds_cellAt cursor _), List.forall_mem_singleton.mpr (takes_displayControl p _)⟩⟩
    rw [List.forall_mem_flatMap]
    exact fun b _ => scanItems_taken p (inBounds_of_mem_flapCells cursor _) perFlip b

end

theorem cursor_inBounds {s : State} (running : s.fatal = none) (ok : s.ShadowOk) :
    inBounds s.S.lineMode s.S.cursorPos = true := (Bool.and_eq_true_iff.mp (ok running).2).1

/-- Settles O50, from the scripts of the two strategies. -/
theorem splitFlapEndsPastItsText : Obligations.SplitFlapEndsPastItsText := by
  intro s text m perFlip printable ddram shadowOk canSend
  have passes := splitFlapError_eq_none_iff.mpr ⟨printable, ddram⟩
  refine ⟨fun perChar asked => ?_, fun asked => ?_⟩
  · have cursor := cursor_inBounds asked.1 shadowOk
    have starts := starts_splitFlapSequential (p := s.params) passes m perFlip perChar
    have script := script_sequential (p := s.params) ddram cursor (fun ch mem => (printable ch mem).1) m perFlip perChar
    refine ⟨canComplete_of_script asked starts script (fun tr => (canSend tr).1)
      (takes_of_items (sequentialItems_taken _ cursor _ _ _ _)), fun t runs => ?_⟩
    have outcome := outcome_of_script asked starts script runs
    exact ⟨outcome.shadow, outcome.sent⟩
  · have cursor := cursor_inBounds asked.1 shadowOk
    have starts := starts_splitFlapSimultaneous (p := s.params) passes m perFlip
    have script := script_simultaneous (p := s.params) ddram cursor text m perFlip
    refine ⟨canComplete_of_script asked starts script (fun tr => (canSend tr).1)
      (takes_of_items (simultaneousItems_taken _ cursor _ _ _)), fun t runs => ?_⟩
    have outcome := outcome_of_script asked starts script runs
    exact ⟨outcome.shadow, outcome.sent⟩

/-- A split-flap that runs to its end has passed its checks (R172). -/
theorem splitFlap_passes {s t : State} {o : Op} {text : List Char} (asked : Asked s o []) (runs : RunsToIdle s t)
    (checks : ∀ e, splitFlapError text s.S = some e → startOp o (s.taking []) = .error e) :
    splitFlapError text s.S = none := by
  cases error : splitFlapError text s.S with
  | none => rfl
  | some e => exact absurd runs (not_runsToIdle_of_error asked (checks e error))

theorem sequential_passes {s t : State} {text : List Char} {m : Option Nat} {f : Nat} {c : Option Nat}
    (asked : Asked s (.splitFlapSequential text m f c) []) (runs : RunsToIdle s t) : splitFlapError text s.S = none :=
  splitFlap_passes asked runs fun e error => by
    have error : splitFlapError text (s.taking []).S = some e := error
    simp only [startOp, startSplitFlapSequential, error]

theorem simultaneous_passes {s t : State} {text : List Char} {m : Option Nat} {f : Nat}
    (asked : Asked s (.splitFlapSimultaneous text m f) []) (runs : RunsToIdle s t) : splitFlapError text s.S = none :=
  splitFlap_passes asked runs fun e error => by
    have error : splitFlapError text (s.taking []).S = some e := error
    simp only [startOp, startSplitFlapSimultaneous, error]

/-- Settles O59, from the script of each operation; one that fails a check does not run to its end. -/
theorem macrosFollowTheirTimelines : Obligations.MacrosFollowTheirTimelines := by
  intro s t runs
  refine ⟨fun text d asked => ?_, fun text m f c asked shadowOk => ?_, fun text m f asked shadowOk => ?_,
    fun target strategy during perStep asked shadowOk moves => ?_, fun count interval asked counted => ?_⟩
  · cases ram : s.S.ramType with
    | cgram =>
      exact absurd runs (not_runsToIdle_of_error asked
        (by rw [startOp, startTypewriter, requireDdram_of_cgram (S := (s.taking []).S) ram]))
    | ddram => exact (outcome_of_script asked (starts_typewriter ram text d) (script_typewriter ram text d) runs).follows
  · have passes := sequential_passes asked runs
    obtain ⟨printable, ddram⟩ := splitFlapError_eq_none_iff.mp passes
    exact (outcome_of_script asked (starts_splitFlapSequential passes m f c)
      (script_sequential ddram (cursor_inBounds asked.1 shadowOk) (fun ch mem => (printable ch mem).1) m f c) runs).follows
  · have passes := simultaneous_passes asked runs
    obtain ⟨_, ddram⟩ := splitFlapError_eq_none_iff.mp passes
    exact (outcome_of_script asked (starts_splitFlapSimultaneous passes m f)
      (script_simultaneous ddram (cursor_inBounds asked.1 shadowOk) text m f) runs).follows
  · by_cases inRange : target < lineCapacity s.S.lineMode
    · exact (outcome_of_script asked (starts_shiftDisplayToPos inRange moves strategy during perStep)
        (script_window _ _ _ _ _ _) runs).follows
    · exact absurd runs (not_runsToIdle_of_error asked
        (by rw [startOp, startShiftDisplayToPos, if_pos (show ¬ target < lineCapacity (s.taking []).S.lineMode from inRange)]))
  · exact (outcome_of_script asked (starts_fullDisplayBlink _ _ counted interval) (script_blink _ _ count interval) runs).follows

end Sys2Proof.Machine
end

section
/-! The cells of a text no longer than the display are distinct (R133, R176). -/
namespace Sys2Proof.Machine
open Sys2Proof.Claim

/-- The number of a position, row by row. -/
def rank (m : LineMode) (pos : Pos) : Nat := pos.row * lineCapacity m + pos.col

/-- What a cursor step adds to the number, modulo the cells of the display. -/
def rankStep : Direction → Nat
  | .leftToRight => 1
  | .rightToLeft => 79

theorem cells_eq (m : LineMode) : lineCapacity m * rowCount m = 80 := by cases m <;> rfl

theorem rank_stepPos {m : LineMode} {pos : Pos} (valid : inBounds m pos = true) (d : Direction) :
    rank m (stepPos m pos d) = (rank m pos + rankStep d) % 80 := by
  obtain ⟨hcol, hrow⟩ := inBounds_iff.mp valid
  cases d with
  | leftToRight =>
    rcases Nat.lt_or_ge pos.col (lineCapacity m - 1) with inside | atEnd
    · rw [stepPos_leftToRight_of_lt inside]
      cases m <;> simp only [rank, rankStep, lineCapacity, rowCount] at * <;> omega
    · rw [stepPos_leftToRight_of_ge atEnd]
      cases m <;> simp only [rank, rankStep, lineCapacity, rowCount, rowOverEnd] at * <;> omega
  | rightToLeft =>
    rcases Nat.eq_zero_or_pos pos.col with atStart | inside
    · rw [stepPos_rightToLeft_of_eq_zero atStart]
      cases m <;> simp only [rank, rankStep, lineCapacity, rowCount, rowOverEnd] at * <;> omega
    · rw [stepPos_rightToLeft_of_pos inside]
      cases m <;> simp only [rank, rankStep, lineCapacity, rowCount] at * <;> omega

theorem rank_cellAt {S : DisplayState} (valid : inBounds S.lineMode S.cursorPos = true) (n : Nat) :
    rank S.lineMode (cellAt S n) = (rank S.lineMode S.cursorPos + n * rankStep S.direction) % 80 := by
  induction n with
  | zero =>
    rw [inBounds_iff] at valid
    obtain ⟨hcol, hrow⟩ := valid
    rw [Nat.zero_mul, Nat.add_zero, cellAt, Function.iterate_zero, id]
    cases m : S.lineMode <;> simp only [m, rank, lineCapacity, rowCount] at * <;> omega
  | succ n ih =>
    rw [cellAt, Function.iterate_succ_apply']
    show rank S.lineMode (stepPos S.lineMode (cellAt S n) S.direction) = _
    rw [rank_stepPos (inBounds_cellAt valid n), ih, Nat.mod_add_mod, Nat.succ_mul, Nat.add_assoc]

theorem cellAt_injective {S : DisplayState} (valid : inBounds S.lineMode S.cursorPos = true) {a b : Nat} (ha : a < 80)
    (hb : b < 80) (same : cellAt S a = cellAt S b) : a = b := by
  have ranks := congrArg (rank S.lineMode) same
  rw [rank_cellAt valid, rank_cellAt valid] at ranks
  cases d : S.direction <;> simp only [d, rankStep] at ranks <;> omega

theorem flapCells_nodup {S : DisplayState} (valid : inBounds S.lineMode S.cursorPos = true) {text : List Char}
    (fits : text.length ≤ 80) : ((flapCells S text).map Prod.fst).Nodup := by
  have cells : (flapCells S text).map Prod.fst = (List.range' 0 text.length).map (cellAt S) := by
    rw [flapCells, List.map_map, ← List.zipIdx_map_snd, List.map_map]
    rfl
  rw [cells]
  refine List.Nodup.map_on (fun a ha b hb same => ?_) List.nodup_range'
  rw [List.mem_range'_1] at ha hb
  exact cellAt_injective valid (by omega) (by omega) same

/-- Of a list with distinct keys, the entries with the key of one of them are that one. -/
theorem filter_key_eq {α β : Type} [DecidableEq β] {f : α → β} {xs : List α} {x : α} (distinct : (xs.map f).Nodup)
    (mem : x ∈ xs) : xs.filter (fun y => decide (f y = f x)) = [x] := by
  induction xs with
  | nil => cases mem
  | cons y xs ih =>
    obtain ⟨fresh, distinct⟩ := List.nodup_cons.mp distinct
    obtain rfl | later := List.mem_cons.mp mem
    · rw [List.filter_cons_of_pos (by simp)]
      refine congrArg _ (List.filter_eq_nil_iff.mpr fun z listed same => ?_)
      exact fresh (of_decide_eq_true same ▸ List.mem_map_of_mem listed)
    · rw [List.filter_cons_of_neg, ih distinct later]
      intro same
      exact fresh (of_decide_eq_true same ▸ List.mem_map_of_mem later)

end Sys2Proof.Machine
end

section
/-! What the shared scan sends to one cell (R176, conflict C2). -/
namespace Sys2Proof.Machine
open Sys2Proof.Claim

theorem setDdramByte_injective {m : LineMode} {a b : Pos} (ha : inBounds m a = true) (hb : inBounds m b = true)
    (same : instruction (setDdramByte m a) = instruction (setDdramByte m b)) : a = b := by
  have bytes : setDdramByte m a = setDdramByte m b := by
    rw [instruction, instruction, writeCommand, writeCommand] at same
    simpa using same
  have la := ddramAddr_lt ha
  have lb := ddramAddr_lt hb
  rw [setDdramByte_eq, setDdramByte_eq] at bytes
  have numbers := congrArg BitVec.toNat bytes
  rw [BitVec.toNat_ofNat, BitVec.toNat_ofNat, Nat.mod_eq_of_lt (by omega), Nat.mod_eq_of_lt (by omega)] at numbers
  exact ddramAddr_injective ha hb (by omega)

theorem displayControl_ne_address {m : LineMode} {pos : Pos} (valid : inBounds m pos = true) (S : DisplayState) :
    instruction (displayControlByte S) ≠ instruction (setDdramByte m pos) := by
  intro same
  have bytes : displayControlByte S = setDdramByte m pos := by
    rw [instruction, instruction, writeCommand, writeCommand] at same
    simpa using same
  have low := displayControlByte_lt S
  have := ddramAddr_lt valid
  rw [bytes, setDdramByte_eq, BitVec.toNat_ofNat, Nat.mod_eq_of_lt (by omega)] at low
  omega

/-- A Command that is not the cell's address adds nothing. -/
theorem bytesTo_cons_other {S : DisplayState} {cell : Pos} {c : Command} (cs : List Command)
    (other : c ≠ instruction (setDdramByte S.lineMode cell)) : bytesTo S cell (c :: cs) = bytesTo S cell cs := by
  cases cs with
  | nil => rfl
  | cons d cs => rw [bytesTo, if_neg other]

theorem dataWrite_ne_instruction (b c : Byte) : dataWrite b ≠ instruction c := fun same => by cases same

/-- The cell's address and a byte after it. -/
theorem bytesTo_cons_write {S : DisplayState} {cell : Pos} (b : Byte) (cs : List Command) :
    bytesTo S cell (instruction (setDdramByte S.lineMode cell) :: dataWrite b :: cs) = b :: bytesTo S cell cs := by
  rw [bytesTo, if_pos rfl, ← bytesTo_cons_other cs (dataWrite_ne_instruction b _)]
  rfl

/-- A byte written to a cell (R161). -/
def cellWrite (m : LineMode) (x : Pos × Byte) : List Command := [instruction (setDdramByte m x.1), dataWrite x.2]

/-- Of writes to cells, a cell gets its own. -/
theorem bytesTo_cellWrites {S : DisplayState} {cell : Pos} (valid : inBounds S.lineMode cell = true)
    {writes : List (Pos × Byte)} (within : ∀ x ∈ writes, inBounds S.lineMode x.1 = true) (cs : List Command) :
    bytesTo S cell (writes.flatMap (cellWrite S.lineMode) ++ cs)
      = (writes.filter fun x => decide (x.1 = cell)).map Prod.snd ++ bytesTo S cell cs := by
  induction writes with
  | nil => rfl
  | cons x writes ih =>
    obtain ⟨first, rest⟩ := List.forall_mem_cons.mp within
    rw [List.flatMap_cons, cellWrite]
    by_cases same : x.1 = cell
    · rw [List.filter_cons_of_pos (by simp [same])]
      show bytesTo S cell (instruction (setDdramByte S.lineMode x.1) :: dataWrite x.2 :: (_ ++ cs)) = x.2 :: (_ ++ _)
      rw [same, bytesTo_cons_write]
      exact congrArg _ (ih rest)
    · rw [List.filter_cons_of_neg (by simp [same]), ← ih rest]
      have other : instruction (setDdramByte S.lineMode x.1) ≠ instruction (setDdramByte S.lineMode cell) :=
        fun equal => same (setDdramByte_injective first valid equal)
      exact (bytesTo_cons_other _ other).trans (bytesTo_cons_other _ (dataWrite_ne_instruction x.2 _))

/-- The writes of one scan step (R176). -/
def scanWrites (cells : List (Pos × Nat)) (b : Nat) : List (Pos × Byte) :=
  (cells.filter fun cell => decide (b ≤ cell.2)).map fun cell => (cell.1, BitVec.ofNat 8 b)

theorem commandsOf_scanItems (S : DisplayState) (cells : List (Pos × Nat)) (perFlip b : Nat) :
    commandsOf (scanItems S cells perFlip b) = (scanWrites cells b).flatMap (cellWrite S.lineMode) := by
  rw [scanItems, commandsOf_append, commandsOf_flatMap, scanWrites, List.flatMap_map]
  exact List.append_nil _

/-- In a scan step with distinct cells, a cell that has not passed its target gets the current code, and any other none. -/
theorem scanWrites_to {cells : List (Pos × Nat)} (distinct : (cells.map Prod.fst).Nodup) {cell : Pos × Nat}
    (mem : cell ∈ cells) (b : Nat) :
    ((scanWrites cells b).filter fun x => decide (x.1 = cell.1)).map Prod.snd
      = if b ≤ cell.2 then [BitVec.ofNat 8 b] else [] := by
  have only : (cells.filter fun x => decide (b ≤ x.2)).filter (fun x => decide (x.1 = cell.1))
      = if b ≤ cell.2 then [cell] else [] := by
    rw [List.filter_comm, filter_key_eq distinct mem, List.filter_singleton]
    simp
  rw [scanWrites, List.filter_map]
  have key : ((fun x : Pos × Byte => decide (x.1 = cell.1)) ∘ fun x : Pos × Nat => (x.1, BitVec.ofNat 8 b))
      = fun x => decide (x.1 = cell.1) := rfl
  rw [key, only]
  split <;> rfl

/-- Of ascending codes those up to the target. -/
theorem flatMap_codes_le (lo : Nat) {t hi : Nat} (le : t ≤ hi) :
    ((codes lo hi).flatMap fun b => if b ≤ t then [BitVec.ofNat 8 b] else []) = (codes lo t).map (BitVec.ofNat 8 : Nat → Byte) := by
  have split : codes lo hi = codes lo t ++ List.range' (lo + (t + 1 - lo)) (hi + 1 - lo - (t + 1 - lo)) := by
    rw [codes, codes, List.range'_append_1]
    congr 1
    omega
  rw [split, List.flatMap_append]
  have first : ((codes lo t).flatMap fun b => if b ≤ t then [BitVec.ofNat 8 b] else []) = (codes lo t).map (BitVec.ofNat 8 : Nat → Byte) := by
    rw [List.map_eq_flatMap]
    refine List.flatMap_congr fun b mem => if_pos ?_
    rw [codes, List.mem_range'_1] at mem
    omega
  have rest : ((List.range' (lo + (t + 1 - lo)) (hi + 1 - lo - (t + 1 - lo))).flatMap
      fun b => if b ≤ t then [(BitVec.ofNat 8 b : Byte)] else []) = [] := by
    rw [List.flatMap_eq_nil_iff]
    intro b mem
    rw [List.mem_range'_1] at mem
    exact if_neg (by omega)
  rw [first, rest, List.append_nil]

theorem le_foldl_max (text : List Char) (n : Nat) : n ≤ text.foldl (fun n x => max n x.toNat) n := by
  induction text generalizing n with
  | nil => exact le_rfl
  | cons ch text ih => exact (le_max_left _ _).trans (ih _)

theorem toNat_le_foldl_max {text : List Char} {ch : Char} (mem : ch ∈ text) (n : Nat) :
    ch.toNat ≤ text.foldl (fun n x => max n x.toNat) n := by
  induction text generalizing n with
  | nil => cases mem
  | cons c text ih =>
    obtain rfl | later := List.mem_cons.mp mem
    · exact (le_max_right _ _).trans (le_foldl_max text _)
    · exact ih later _

theorem getElem_flapCells {S : DisplayState} {text : List Char} {i : Nat} {ch : Char} (listed : text[i]? = some ch) :
    (cellAt S i, ch.toNat) ∈ flapCells S text := by
  rw [flapCells, List.mem_map]
  exact ⟨(ch, i), List.mem_zipIdx_iff_getElem?.mpr (by simpa using listed), rfl⟩

/-- The Commands of the simultaneous split-flap of a text that is not empty: the writes of the scan between the rest. -/
theorem commandsOf_simultaneousItems (S : DisplayState) (ch : Char) (more : List Char) (m : Option Nat) (perFlip : Nat) :
    ∃ tail, commandsOf (simultaneousItems S (ch :: more) m perFlip)
      = instruction (displayControlByte { S with cursorOn := .off })
        :: (((codes (startByte (more.foldl (fun n x => min n x.toNat) ch.toNat) m)
              (more.foldl (fun n x => max n x.toNat) ch.toNat)).flatMap (scanWrites (flapCells S (ch :: more)))).flatMap
            (cellWrite S.lineMode)
          ++ [instruction (setDdramByte S.lineMode (cellAt S (ch :: more).length)), instruction (displayControlByte tail)]) := by
  refine ⟨{ S with cursorOn := S.cursorOn }, ?_⟩
  simp only [simultaneousItems]
  rw [commandsOf_append, commandsOf_append, commandsOf_flatMap, List.flatMap_assoc]
  simp only [commandsOf_scanItems]
  rfl

/-- After the scan no byte follows a cell's address. -/
theorem bytesTo_tail (S : DisplayState) (cell : Pos) (b c : Byte) : bytesTo S cell [instruction b, instruction c] = [] := by
  rw [bytesTo]
  split <;> rfl

/-- What the scan sends to the cell of a character: the codes from the common start to its own. -/
theorem bytesTo_simultaneous {S : DisplayState} (cursor : inBounds S.lineMode S.cursorPos = true) {text : List Char}
    (fits : text.length ≤ 80) (printable : ∀ ch ∈ text, ch.toNat ≤ 0x7D) {i : Nat} {ch : Char} (listed : text[i]? = some ch)
    (m : Option Nat) (perFlip : Nat) :
    bytesTo S (cellAt S i) (commandsOf (simultaneousItems S text m perFlip))
      = (codes (startByte (text.foldl (fun n x => min n x.toNat) 0x7D) m) ch.toNat).map (BitVec.ofNat 8) := by
  have cell := getElem_flapCells (S := S) listed
  have distinct := flapCells_nodup cursor fits
  have valid := inBounds_of_mem_flapCells cursor text
  have mem : ch ∈ text := List.mem_of_getElem? listed
  cases text with
  | nil => cases mem
  | cons c more =>
    obtain ⟨tail, commands⟩ := commandsOf_simultaneousItems S c more m perFlip
    have start : (c :: more).foldl (fun n x => min n x.toNat) 0x7D = more.foldl (fun n x => min n x.toNat) c.toNat := by
      rw [List.foldl_cons, min_eq_right (printable c List.mem_cons_self)]
    have within : ch.toNat ≤ more.foldl (fun n x => max n x.toNat) c.toNat := by
      obtain rfl | later := List.mem_cons.mp mem
      · exact le_foldl_max more _
      · exact toNat_le_foldl_max later _
    rw [commands, bytesTo_cons_other _ (displayControl_ne_address (inBounds_cellAt cursor i) _),
      bytesTo_cellWrites (inBounds_cellAt cursor i), bytesTo_tail, List.append_nil, List.filter_flatMap, List.map_flatMap, start,
      ← flatMap_codes_le _ within]
    · exact List.flatMap_congr fun b _ => scanWrites_to distinct cell b
    · rw [List.forall_mem_flatMap]
      intro b _
      rw [scanWrites, List.forall_mem_map]
      exact fun x listed => valid x (List.mem_filter.mp listed).1

/-- Settles O58: the Commands sent are those of the timeline, and each cell is its own. -/
theorem sharedScanEndsEachCellAtItsTarget : Obligations.SharedScanEndsEachCellAtItsTarget := by
  intro s t text m perFlip i ch asked shadowOk fits listed runs
  have passes := simultaneous_passes asked runs
  obtain ⟨printable, ddram⟩ := splitFlapError_eq_none_iff.mp passes
  have cursor := cursor_inBounds asked.1 shadowOk
  have outcome := outcome_of_script asked (starts_splitFlapSimultaneous passes m perFlip)
    (script_simultaneous ddram cursor text m perFlip) runs
  rw [cells_eq] at fits
  rw [outcome.sent]
  exact bytesTo_simultaneous cursor fits (fun ch mem => (printable ch mem).2) listed m perFlip

end Sys2Proof.Machine
end

section
/-! The named steps of an operation (R162): entering one, staying in it, leaving it. -/
namespace Sys2Proof.Machine
open Sys2Proof.Claim

/-- The state in another named step. -/
def State.entered (s : State) (g : InitStage) : State := { s with seq := s.seq.enter g }

theorem goes_enter {s : State} (working : Working s) (g : InitStage) (ms : List Micro) :
    Goes 1 (s.push (.stage g :: ms)) ((s.entered g).push ms) := by
  have enters : (s.push ms).micro (.stage g) = (s.entered g).push ms := by
    obtain ⟨p, S, pi, X, f, q, rx, se, re, rq, e, tr, d⟩ := s
    cases q <;> rfl
  have := goes_push_cons working (.stage g) ms
  rwa [enters] at this

theorem working_entered {s : State} (working : Working s) (g : InitStage) : Working (s.entered g) := by
  obtain ⟨running, n, st, rest, hq⟩ := working
  exact ⟨running, n, some g, rest, by rw [State.entered, hq]; rfl⟩

theorem stageOf_entered {s : State} (working : Working s) (g : InitStage) : stageOf (s.entered g) = some g := by
  obtain ⟨_, n, st, rest, hq⟩ := working
  rw [State.entered, hq]
  rfl

theorem advances_entered {s : State} (working : Working s) (g : InitStage) : Advances s [] [] (s.entered g) := by
  have ⟨_, n, st, rest, hq⟩ := working
  exact advances_of_silent working (n := n) (st := some g) (by rw [State.entered, hq]; rfl) ⟨n, st, hq⟩ rfl

/-- Actions are left. -/
def Left (s : State) : Prop := ∃ n st m ms, s.seq = .running n st (m :: ms)

theorem left_push {s : State} (working : Working s) {ms : List Micro} (nonempty : ms ≠ []) : Left (s.push ms) := by
  obtain ⟨_, n, st, rest, hq⟩ := working
  obtain ⟨m, ms, rfl⟩ := List.exists_cons_of_ne_nil nonempty
  exact ⟨n, st, m, ms ++ rest, by rw [push_seq, hq]; rfl⟩

theorem settle_of_left {s : State} (left : Left s) : s.settle = s := by
  obtain ⟨n, st, m, ms, hq⟩ := left
  unfold State.settle
  split
  · next hq' => rw [hq] at hq'; cases hq'
  · rfl

theorem left_of_stays {i : Nat} {u v : State} (stays : Stays i u v) (left : Left v) : Left u := by
  cases stays with
  | stay _ => exact left
  | act _ hq _ _ => exact ⟨_, _, _, _, hq⟩

/-- A block that stays in a named step to a state with actions left is in it at every step before (R162). -/
theorem stageOf_of_stays {i j : Nat} {u v x : State} (stays : Stays i u v) (left : Left v) (le : j ≤ i) (runs : Runs j u x) :
    stageOf x = stageOf u := by
  induction stays generalizing j with
  | stay s =>
    obtain rfl : j = 0 := by omega
    cases runs
    rfl
  | @act k s t n st m ms running hq same more ih =>
    cases j with
    | zero => cases runs; rfl
    | succ j =>
      obtain ⟨w, next, rest⟩ := runs_succ_inv runs
      cases (step_running running hq).symm.trans next
      rw [settle_of_left (left_of_stays more left)] at rest
      rw [ih left (by omega) rest, same]

/-- Actions put before others and taken: what was left before is left after. -/
theorem advances_unpush {s v : State} {ms : List Micro} {calls : List Call} {sent : List Command} (working : Working s)
    (advances : Advances (s.push ms) calls sent v) : ∃ x, v = x.push ms ∧ Advances s calls sent x := by
  have ⟨_, n, st, rest, hq⟩ := working
  obtain ⟨n₁, n', st₁, st', rest', before, after⟩ := advances.seq
  have same : rest' = ms ++ rest := by
    rw [push_seq, hq] at before
    cases before
    rfl
  refine ⟨v.placed (.running n' st' rest), ?_, advances.running, ⟨n, n', st, st', rest, hq, rfl⟩, advances.params, advances.poll,
    advances.addr, advances.backlight, advances.bootstrapped, advances.firstSent, advances.trace, advances.delivered⟩
  rw [State.push, State.placed]
  simp only [Seq.push, ← same, ← after]

theorem reaches_unpush {s v : State} {ms : List Micro} {items : List Item} {S : DisplayState} (working : Working s)
    (reaches : Reaches (s.push ms) items S v) : ∃ x, v = x.push ms ∧ Reaches s items S x := by
  obtain ⟨⟨calls, follows, advances⟩, shadow⟩ := reaches
  obtain ⟨x, rfl, advances'⟩ := advances_unpush working advances
  exact ⟨x, rfl, ⟨calls, follows_congr (s := s) (u := s.push ms) ⟨rfl, rfl, rfl, rfl⟩ follows, advances'⟩, shadow⟩

/-! ## Operations in named steps -/

/-- Actions in named steps from a shadow: the steps with their timelines, and the shadow they end with. -/
inductive Phases (p : Params) : DisplayState → List Micro → List (InitStage × List Item) → DisplayState → Prop
  | done (S : DisplayState) : Phases p S [] [] S
  | next {S S₁ S' : DisplayState} {ms more : List Micro} {items : List Item} {stages : List (InitStage × List Item)}
      (g : InitStage) (script : Script p S ms items S₁) (rest : Phases p S₁ more stages S') :
      Phases p S (.stage g :: (ms ++ more)) ((g, items) :: stages) S'

theorem callsBetween_of_trace {u w : State} {es : List Event} (trace : w.trace = u.trace ++ es) :
    callsBetween u w = es.map Event.call := by
  rw [callsBetween, trace, List.drop_left]

theorem Reaches.follows {s u : State} {items : List Item} {S : DisplayState} (reaches : Reaches s items S u) :
    Follows s items (callsBetween s u) := by
  obtain ⟨⟨calls, follows, advances⟩, _⟩ := reaches
  obtain ⟨es, trace, rfl⟩ := advances.trace
  rwa [callsBetween_of_trace trace]

theorem Reaches.sameBus {s u : State} {items : List Item} {S : DisplayState} (reaches : Reaches s items S u) : SameBus s u := by
  obtain ⟨_, _, advances⟩ := reaches.advances
  exact advances.sameBus

theorem SameBus.trans {s t u : State} (first : SameBus s t) (second : SameBus t u) : SameBus s u :=
  ⟨second.params.trans first.params, second.poll.trans first.poll, second.addr.trans first.addr,
    second.backlight.trans first.backlight⟩

/-- A run to the end of an operation passes through its named steps, in order, to the entry of the last: from the first
entry `u` it passes through them and, if it does so through the last from its entry `z`, through all. -/
theorem phases_sound {p : Params} {S S' : DisplayState} {ms : List Micro} {stages : List (InitStage × List Item)}
    (phases : Phases p S ms stages S') {s x v : State} {k : Nat} {g : InitStage} {last : List Micro} {items : List Item}
    (working : Working x) (params : x.params = p) (shadow : x.S = S) (bus : SameBus s x)
    (names : (stages.map Prod.fst ++ [g]).Nodup) (nonempty : last ≠ [])
    (whole : Goes k (x.push (ms ++ .stage g :: last)) v) (ended : Ended v) :
    ∃ u z j, Goes 1 (x.push (ms ++ .stage g :: last)) u ∧ Left u ∧ u.trace = x.trace
      ∧ stageOf u = (stages.map Prod.fst ++ [g]).head? ∧ Reaches x (stages.flatMap Prod.snd) S' z ∧ stageOf z = some g
      ∧ Goes j (z.push last) v
      ∧ ∀ t, PassesThrough s [(g, items)] (z.push last) t → PassesThrough s (stages ++ [(g, items)]) u t := by
  induction phases generalizing x k with
  | done S =>
    have enters := goes_enter working g last
    obtain ⟨j, _, rest⟩ := goes_through whole ended enters
    exact ⟨_, x.entered g, j, enters, left_push (working_entered working g) nonempty, rfl,
      (stageOf_push _ _).trans (stageOf_entered working g), ⟨⟨[], rfl, advances_entered working g⟩, shadow⟩,
      stageOf_entered working g, rest, fun t passes => passes⟩
  | @next S S₁ S' ms more first stages g₁ script _ ih =>
    obtain ⟨fresh, names⟩ := List.nodup_cons.mp names
    rw [List.cons_append, List.append_assoc] at whole ⊢
    have enters := goes_enter working g₁ (ms ++ (more ++ .stage g :: last))
    obtain ⟨j, _, rest⟩ := goes_through whole ended enters
    rw [← push_push] at enters rest
    have working' := working_push (working_entered working g₁) (more ++ .stage g :: last)
    obtain ⟨i, j', v₁, stays, rest', reaches⟩ := script_sound script working' params shadow rest ended
    obtain ⟨y, rfl, reaches'⟩ := reaches_unpush (working_entered working g₁) reaches
    have entered : Reaches x [] S (x.entered g₁) := ⟨⟨[], rfl, advances_entered working g₁⟩, shadow⟩
    have to_y := reaches_trans entered reaches'
    obtain ⟨u, z, j'', leaves, left, trace, stage, to_z, inLast, end_, passes⟩ :=
      ih to_y.working (to_y.params.trans params) to_y.shadow (bus.trans to_y.sameBus) names rest'
    have left₁ : Left (y.push (more ++ .stage g :: last)) :=
      left_push to_y.working (List.append_ne_nil_of_right_ne_nil _ (List.cons_ne_nil _ _))
    have inFirst : stageOf (((x.entered g₁).push (more ++ .stage g :: last)).push ms) = some g₁ := by
      rw [stageOf_push, stageOf_push, stageOf_entered working g₁]
    have some₁ : ms ++ (more ++ .stage g :: last) ≠ [] :=
      List.append_ne_nil_of_right_ne_nil _ (List.append_ne_nil_of_right_ne_nil _ (List.cons_ne_nil _ _))
    refine ⟨_, z, j'', enters, ?_, rfl, inFirst, reaches_trans to_y to_z, inLast, end_, fun t through => ?_⟩
    · rw [push_push]
      exact left_push (working_entered working g₁) some₁
    · refine ⟨i, _, u, runs_of_goes_unsettled (goes_of_stays stays) (.inr left₁), fun j x le runs => ?_,
        runs_of_goes_unsettled leaves (.inr left), ?_, ?_, passes t through⟩
      · rw [stageOf_of_stays stays left₁ le runs, inFirst]
      · rw [stage]
        intro same
        exact fresh (List.mem_of_mem_head? same)
      · have calls : callsBetween (((x.entered g₁).push (more ++ .stage g :: last)).push ms) u
            = callsBetween (x.entered g₁) y := by rw [callsBetween, trace, callsBetween]; rfl
        rw [calls]
        exact follows_congr (bus.trans entered.sameBus) reaches'.follows

end Sys2Proof.Machine
end

section
/-! The backlight push that ends `init` (R120, R153 step T4). -/
namespace Sys2Proof.Machine
open Sys2Proof.Claim

/-- The calls of the backlight push: one, or none on a parallel transport without the line. -/
def backlightCalls (s : State) : List Call :=
  match s.params.transport with
  | .i2cBridge => [.i2cWrite s.X.addr [latchByte s.params.latch 0 0 0 (blBit s.S.backlight) 0]]
  | .parallelFourBit => if s.params.hasBacklight then [.pinSet .bl (blLv s.S.backlight)] else []
  | .parallelEightBit => if s.params.hasBacklight then [.pinSet .bl (blLv s.S.backlight)] else []

/-- What the push stores: over the bridge, the backlight of the shadow. -/
def storedBacklight (s : State) : Switch :=
  match s.params.transport with
  | .i2cBridge => s.S.backlight
  | .parallelFourBit => s.X.backlight
  | .parallelEightBit => s.X.backlight

def State.lit (s : State) : State := { s with X := { s.X with backlight := storedBacklight s } }

theorem backlightCalls_cases (s : State) : backlightCalls s = [] ∨ ∃ c, backlightCalls s = [c] := by
  unfold backlightCalls
  cases s.params.transport <;> cases s.params.hasBacklight <;> simp

theorem backlightItems_eq {s z : State} (bus : SameBus s z) (same : z.S.backlight = s.S.backlight) :
    backlightItems s = (backlightCalls z).map .event := by
  unfold backlightItems backlightCalls
  rw [bus.params, bus.addr, same]
  cases s.params.transport <;> cases s.params.hasBacklight <;> rfl

theorem micro_pushBacklight (s : State) : s.micro .pushBacklight = s.lit.push ((backlightCalls s).map event) := by
  have level : backlightLevel s.S.backlight = blLv s.S.backlight := by cases s.S.backlight <;> rfl
  show s.begin (.setBacklight s.S.backlight) = _
  by_cases tr : s.params.transport = .i2cBridge
  · rw [State.begin, startOp, startSetBacklight_of_bridge tr]
    simp only [State.lit, storedBacklight, backlightCalls, tr]
    rfl
  · rw [State.begin, startOp, startSetBacklight_of_parallel tr, level]
    simp only [State.lit, storedBacklight, backlightCalls]
    cases htr : s.params.transport
    · cases s.params.hasBacklight <;> rfl
    · cases s.params.hasBacklight <;> rfl
    · exact absurd htr tr

theorem stays_pushBacklight {s : State} (working : Working s) :
    Stays 1 (s.push [.pushBacklight]) (s.lit.push ((backlightCalls s).map event)) := by
  have becomes : (s.push []).micro .pushBacklight = s.lit.push ((backlightCalls s).map event) := by
    rw [push_nil, micro_pushBacklight]
  have := stays_push_cons working .pushBacklight [] (by rw [becomes, stageOf_push]; rfl)
  rwa [becomes] at this

/-- No action of an operation is left, in a block that is not halted. -/
theorem eq_of_goes_ended {k : Nat} {s t : State} (ended : Ended s) (goes : Goes k s t) : t = s := by
  cases k with
  | zero => cases goes; rfl
  | succ k => exact (not_goes_of_ended ended goes).elim

theorem stageOf_rested (s : State) : stageOf s.rested = none := rfl

/-- Leaving the last named step: the calls of it have been made, and the block is idle (R30, R162). -/
theorem passesThrough_last {s u v w : State} {g : InitStage} {items : List Item} {i : Nat} (stays : Stays i u v)
    (left : Left v) (inLast : stageOf u = some g) (last : Goes 1 v w) (ended : Ended w)
    (follows : Follows s items (callsBetween u w)) : PassesThrough s [(g, items)] u w.rested := by
  refine ⟨i, v, w.rested, runs_of_goes_unsettled (goes_of_stays stays) (.inr left), fun j x le runs => ?_, ?_, ?_, follows, rfl⟩
  · rw [stageOf_of_stays stays left le runs, inLast]
  · have := runs_of_goes last
    rwa [settle_of_ended ended] at this
  · rw [stageOf_rested]
    exact (Option.some_ne_none g).symm

/-- The backlight push that ends a run: its calls are made and the block is idle. -/
theorem backlight_ends {s z v : State} {g : InitStage} {j : Nat} (working : Working z) (bus : SameBus s z)
    (same : z.S.backlight = s.S.backlight) (none_left : ∃ n st, z.seq = .running n st []) (inLast : stageOf z = some g)
    (whole : Goes j (z.push [.pushBacklight]) v) (ended : Ended v) :
    v = z.lit.afterCalls (backlightCalls z) ∧ PassesThrough s [(g, backlightItems s)] (z.push [.pushBacklight]) v.rested := by
  have pushes := stays_pushBacklight working
  obtain ⟨_, _, rest⟩ := stays_through whole ended pushes
  obtain ⟨n, st, hq⟩ := none_left
  have inLast' : stageOf (z.push [.pushBacklight]) = some g := by rw [stageOf_push, inLast]
  have left : Left (z.push [.pushBacklight]) := left_push working (List.cons_ne_nil _ _)
  have items := backlightItems_eq bus same
  obtain none | ⟨c, one⟩ := backlightCalls_cases z
  · rw [none] at pushes rest items ⊢
    rw [List.map_nil] at pushes rest items
    rw [push_nil] at pushes rest
    have litEnded : Ended z.lit := ⟨working.1, n, st, hq⟩
    cases eq_of_goes_ended litEnded rest
    rw [afterCalls_nil, items]
    refine ⟨rfl, passesThrough_last (.stay _) left inLast' (goes_of_stays pushes) litEnded ?_⟩
    rw [callsBetween_of_trace (u := z.push _) (w := z.lit) (es := []) (List.append_nil z.trace).symm]
    rfl
  · rw [one] at pushes rest items ⊢
    have litWorking : Working z.lit := ⟨working.1, n, st, [], hq⟩
    have event := stays_event litWorking c [] (event_succeeds litWorking rest ended)
    rw [push_nil] at event
    obtain ⟨_, _, rest'⟩ := stays_through rest ended event
    have callEnded : Ended (z.lit.afterCalls [c]) := ⟨working.1, n + 1, st, by
      show z.seq.afterEvents 1 = _
      rw [hq]
      rfl⟩
    cases eq_of_goes_ended callEnded rest'
    rw [items]
    refine ⟨rfl, passesThrough_last pushes (left_push litWorking (List.cons_ne_nil _ _)) inLast' (goes_of_stays event) callEnded ?_⟩
    rw [callsBetween_of_trace (es := eventsOf [c] z.env) rfl, eventsOf_map_call]
    exact ⟨[], rfl, rfl⟩

/-- Where no event fails, the push runs to its end. -/
theorem backlight_total {z : State} (working : Working z) (none_left : ∃ n st, z.seq = .running n st [])
    (never : z.env.failIn = none) : ∃ j v, Goes j (z.push [.pushBacklight]) v ∧ Ended v := by
  have pushes := goes_of_stays (stays_pushBacklight working)
  obtain ⟨n, st, hq⟩ := none_left
  obtain none | ⟨c, one⟩ := backlightCalls_cases z
  · rw [none, List.map_nil, push_nil] at pushes
    exact ⟨1, z.lit, pushes, working.1, n, st, hq⟩
  · rw [one] at pushes
    have litWorking : Working z.lit := ⟨working.1, n, st, [], hq⟩
    have event := goes_of_stays (stays_event litWorking c [] (by
      show z.env.failIn ≠ some 0
      rw [never]
      exact (Option.some_ne_none 0).symm))
    rw [push_nil] at event
    exact ⟨_, _, goes_trans pushes event, working.1, n + 1, st, by
      show z.seq.afterEvents 1 = _
      rw [hq]
      rfl⟩

end Sys2Proof.Machine
end

section
/-! `init` (R151 to R153, R162). -/
namespace Sys2Proof.Machine
open Sys2Proof.Claim

/-- The named steps of `init` before the last. -/
def initFront (S : DisplayState) : List (InitStage × List Item) :=
  (match S.dataWidth with
    | .bit4 =>
      [(.i1, [.plain halfCommand, .event (.delayMs 40)]), (.i2, [.plain (instruction (functionSetByte S)), .event (.delayUs 40)]),
        (.i3, [.plain (instruction (functionSetByte S)), .event (.delayUs 40)])]
    | .bit8 =>
      [(.i1, [.plain (instruction (functionSetByte S)), .event (.delayMs 40)]),
        (.i2, [.plain (instruction (functionSetByte S)), .event (.delayUs 40)])])
    ++ [(.t1, [.polled (instruction (displayControlByte S))]), (.t2, [.polled (instruction 0x01)]),
      (.t3, [.polled (instruction (entryModeByte S))])]

theorem initStages_eq (s : State) : initStages s = initFront s.S ++ [(.t4, backlightItems s)] := by
  unfold initStages initFront
  cases s.S.dataWidth <;> rfl

/-- The actions of `init` before the last step. -/
def initFrontActions (S : DisplayState) : List Micro :=
  (match S.dataWidth with
    | .bit4 => initFourBit S
    | .bit8 => initEightBit S)
    ++ [.stage .t1, .waitIdle S.displayControlCommand, .stage .t2, .home, .waitIdle encodeClearDisplay,
      .stage .t3, .waitIdle S.entryModeCommand]

theorem starts_init {s : State} (fits : initWidthError s = none) :
    Starts s.params s.S .init s.S (initFrontActions s.S ++ [.stage .t4, .pushBacklight]) := by
  intro s' params shadow
  have fits' : initWidthError s' = none := by
    rw [← fits, initWidthError, initWidthError, params, shadow]
  rw [startOp, startInit]
  simp only [fits', initFrontActions, shadow]
  cases s.S.dataWidth <;> (rw [← shadow]; rfl)

theorem bootstrap_ne_busyRead : halfCommand ≠ busyRead := fun same => by cases same

theorem phases_tail (p : Params) (S : DisplayState) :
    Phases p S [.stage .t1, .waitIdle S.displayControlCommand, .stage .t2, .home, .waitIdle encodeClearDisplay,
        .stage .t3, .waitIdle S.entryModeCommand]
      [(.t1, [.polled (instruction (displayControlByte S))]), (.t2, [.polled (instruction 0x01)]),
        (.t3, [.polled (instruction (entryModeByte S))])] S.homed := by
  rw [displayControlCommand_eq, entryModeCommand_eq]
  exact .next (ms := [_]) .t1 (.polled _ (instruction_ne_busyRead _) (.done _))
    (.next (ms := [.home, _]) .t2 (.silent (expands_home p S) (.polled _ (instruction_ne_busyRead _) (.done _)))
      (.next (ms := [_]) .t3 (.polled _ (instruction_ne_busyRead _) (.done _)) (.done _)))

/-- A plain send and the fixed delay after it (R151, R152). -/
theorem script_plain_delay {p : Params} (S : DisplayState) {c : Command} (other : c ≠ busyRead) (d : Call)
    (noDraw : levelDraws [d] + byteDraws [d] = 0) : Script p S [.send c, event d] [.plain c, .event d] S :=
  .plain c other (.event d noDraw (.done S))

theorem phases_init (p : Params) (S : DisplayState) : Phases p S (initFrontActions S) (initFront S) S.homed := by
  unfold initFrontActions initFront
  have tail := phases_tail p S
  cases S.dataWidth with
  | bit4 =>
    rw [initFourBit, functionSetCommand_eq]
    exact .next (ms := [_, _]) .i1 (script_plain_delay S bootstrap_ne_busyRead _ rfl)
      (.next (ms := [_, _]) .i2 (script_plain_delay S (instruction_ne_busyRead _) _ rfl)
        (.next (ms := [_, _]) .i3 (script_plain_delay S (instruction_ne_busyRead _) _ rfl) tail))
  | bit8 =>
    rw [initEightBit, functionSetCommand_eq]
    exact .next (ms := [_, _]) .i1 (script_plain_delay S (instruction_ne_busyRead _) _ rfl)
      (.next (ms := [_, _]) .i2 (script_plain_delay S (instruction_ne_busyRead _) _ rfl) tail)

theorem initFront_names (S : DisplayState) : ((initFront S).map Prod.fst ++ [InitStage.t4]).Nodup := by
  unfold initFront
  cases S.dataWidth with
  | bit4 =>
    show [InitStage.i1, .i2, .i3, .t1, .t2, .t3, .t4].Nodup
    decide
  | bit8 =>
    show [InitStage.i1, .i2, .t1, .t2, .t3, .t4].Nodup
    decide

/-- The actions of an operation all taken, none are left. -/
theorem nothing_left_of_reaches {s z : State} {S S' : DisplayState} {items : List Item}
    (reaches : Reaches (s.begun S) items S' z) : ∃ n st, z.seq = .running n st [] := by
  obtain ⟨_, _, advances⟩ := reaches.advances
  obtain ⟨_, n, _, st, _, hq, hq'⟩ := advances.seq
  cases hq
  exact ⟨n, st, hq'⟩

/-- What a completed `init` has gone through. -/
theorem init_sound {s t : State} (asked : Asked s .init []) (runs : RunsToIdle s t) :
    ∃ u z, Runs 2 s u ∧ u.trace = s.trace ∧ PassesThrough s (initStages s) u t
      ∧ Reaches (s.begun s.S) ((initFront s.S).flatMap Prod.snd) s.S.homed z
      ∧ t = (z.lit.afterCalls (backlightCalls z)).rested := by
  cases width : initWidthError s with
  | some e =>
    refine absurd runs (not_runsToIdle_of_error (e := e) asked ?_)
    have width : initWidthError (s.taking []) = some e := width
    rw [startOp, startInit, width]
  | none =>
    have starts := starts_init width
    obtain ⟨m, ms, cons⟩ := List.exists_cons_of_ne_nil
      (List.append_ne_nil_of_right_ne_nil (initFrontActions s.S) (List.cons_ne_nil (.stage .t4) [.pushBacklight]))
    rw [cons] at starts
    obtain ⟨_, v, whole, ended, rfl⟩ := goes_of_runsToIdle asked starts runs
    have begins := step_of_asked_begun asked starts.at_taking
    rw [← cons] at whole begins
    obtain ⟨u, z, j, first, left, trace, _, reaches, inLast, rest, passes⟩ :=
      phases_sound (phases_init s.params s.S) (s := s) (items := backlightItems s) (working_begun asked.1 s.S) rfl rfl
        ⟨rfl, rfl, rfl, rfl⟩ (initFront_names s.S) (List.cons_ne_nil .pushBacklight []) whole ended
    obtain ⟨_, _, advances⟩ := reaches.advances
    have none_left := nothing_left_of_reaches reaches
    have bus : SameBus s z := SameBus.trans (t := s.begun s.S) ⟨rfl, rfl, rfl, rfl⟩ advances.sameBus
    obtain ⟨rfl, through⟩ := backlight_ends advances.working bus (by rw [reaches.shadow]; rfl) none_left inLast rest ended
    rw [← begun_eq_push] at first
    exact ⟨u, z, runs_succ begins (runs_of_goes_unsettled first (.inr left)), trace,
      by rw [initStages_eq]; exact passes _ through, reaches, rfl⟩

/-- Settles O60. -/
theorem initPassesThroughItsStages : Obligations.InitPassesThroughItsStages := by
  intro s asked t runs
  obtain ⟨u, _, entered, trace, passes, _⟩ := init_sound asked runs
  exact ⟨u, entered, trace, passes⟩

theorem later_runs {k : Nat} {s t : State} (runs : Runs k s t) : Later s t := by
  induction k generalizing s with
  | zero => cases runs; exact later_refl t
  | succ k ih =>
    obtain ⟨u, next, rest⟩ := runs_succ_inv runs
    exact later_trans (later_step next) (ih rest)

/-- The calls of a run through named steps are those of the steps, one after the other. -/
theorem follows_of_passesThrough {s u t : State} {stages : List (InitStage × List Item)} (passes : PassesThrough s stages u t) :
    Later u t ∧ Follows s (stages.flatMap Prod.snd) (callsBetween u t) := by
  induction stages generalizing u with
  | nil =>
    cases passes
    exact ⟨later_refl t, by rw [callsBetween_of_trace (es := []) (List.append_nil _).symm]; rfl⟩
  | cons stage stages ih =>
    obtain ⟨k, v, w, runs, _, leaves, _, follows, passes⟩ := passes
    obtain ⟨later, follows'⟩ := ih passes
    have first := later_trans (later_runs runs) (later_runs leaves)
    refine ⟨later_trans first later, ?_⟩
    obtain ⟨_, _, _, _, _, ⟨es, trace⟩, _⟩ := first
    obtain ⟨_, _, _, _, _, ⟨es', trace'⟩, _⟩ := later
    rw [callsBetween_of_trace trace] at follows
    rw [callsBetween_of_trace trace'] at follows'
    rw [callsBetween_of_trace (es := es ++ es') (by rw [trace', trace, List.append_assoc]), List.map_append, List.flatMap_cons]
    exact follows_append follows follows'

/-- Settles O57: the timeline of `init` is that of its named steps (O60). -/
theorem initFollowsItsTimeline : Obligations.InitFollowsItsTimeline := by
  intro s asked t runs
  obtain ⟨u, _, _, trace, passes, _⟩ := init_sound asked runs
  have follows := (follows_of_passesThrough passes).2
  rwa [callsBetween, trace] at follows

end Sys2Proof.Machine
end

section
/-! That `init` can complete, and its lockstep with the assumed controller (R151 to R153, R226). -/
namespace Sys2Proof.Machine
open Sys2Proof.Claim

/-! ## Operations in named steps run to their end -/

/-- The actions begin with a named step that sends the bootstrap. -/
def Boots (ms : List Micro) : Prop := ∃ g more, ms = .stage g :: .send bootstrap :: more

/-- The Command that a named step begins with is one of its timeline. -/
theorem sends_of_boots {p : Params} {S S₁ S' : DisplayState} {g : InitStage} {ms more : List Micro} {items : List Item}
    {stages : List (InitStage × List Item)} (script : Script p S ms items S₁) (rest : Phases p S₁ more stages S')
    (boots : Boots (.stage g :: (ms ++ more))) : ms.head? = some (.send bootstrap) ∧ commandsOf items ≠ [] := by
  obtain ⟨g', more', begins⟩ := boots
  cases script with
  | done =>
    cases begins
    cases rest
  | event => cases begins
  | plain c =>
    cases begins
    exact ⟨rfl, List.cons_ne_nil _ _⟩
  | polled => cases begins
  | silent expands =>
    cases begins
    exact absurd rfl (expands.1 bootstrap)

/-- Actions in named steps whose Commands the transport takes run to their end in an environment calm for long enough. -/
theorem phases_total {p : Params} {S S' : DisplayState} {ms : List Micro} {stages : List (InitStage × List Item)}
    (phases : Phases p S ms stages S') (takes : ∀ c ∈ commandsOf (stages.flatMap Prod.snd), Takes p c) (last : List Micro) :
    ∃ N, ∀ (n : Nat) (x : State), Working x → x.params = p → x.S = S →
      (p.transport = .i2cBridge → x.X.firstCommandSent = true ∨ Boots ms) → Calm (N + n) x.env →
      ∃ i u, Goes i (x.push (ms ++ last)) (u.push last) ∧ Reaches x (stages.flatMap Prod.snd) S' u ∧ Calm n u.env := by
  induction phases with
  | done S =>
    refine ⟨0, fun n x working _ shadow _ calm => ⟨0, x, .stay _, ⟨⟨[], rfl, advances_refl working⟩, shadow⟩, ?_⟩⟩
    rwa [Nat.zero_add] at calm
  | @next S S₁ S' ms more items stages g script rest ih =>
    rw [List.flatMap_cons, commandsOf_append] at takes
    obtain ⟨N, first⟩ := script_total script fun c mem => takes c (List.mem_append_left _ mem)
    obtain ⟨N', later⟩ := ih fun c mem => takes c (List.mem_append_right _ mem)
    refine ⟨N + N', fun n x working params shadow bootstrapped calm => ?_⟩
    rw [Nat.add_assoc] at calm
    have working₁ := working_entered working g
    obtain ⟨i, _, stays, reaches, calm'⟩ := first (N' + n) ((x.entered g).push (more ++ last)) (working_push working₁ _) params
      shadow (fun tr => (bootstrapped tr).imp_right fun boots => (sends_of_boots script rest boots).1) calm
    obtain ⟨y, rfl, reaches'⟩ := reaches_unpush working₁ reaches
    have entered : Reaches x [] S (x.entered g) := ⟨⟨[], rfl, advances_entered working g⟩, shadow⟩
    have to_y := reaches_trans entered reaches'
    obtain ⟨_, _, advances⟩ := reaches'.advances
    have bootstrapped' : p.transport = .i2cBridge → y.X.firstCommandSent = true := fun tr => by
      obtain done | boots := bootstrapped tr
      · exact advances.bootstrapped done
      · exact advances.firstSent (params ▸ tr) (sends_of_boots script rest boots).2
    obtain ⟨j, u, goes, to_u, calm''⟩ :=
      later n y to_y.working (to_y.params.trans params) to_y.shadow (fun tr => .inl (bootstrapped' tr)) calm'
    have enters := goes_enter working g (ms ++ (more ++ last))
    rw [← push_push] at enters
    have whole := goes_trans enters (goes_trans (goes_of_stays stays) goes)
    rw [List.cons_append, List.append_assoc]
    exact ⟨_, u, whole, reaches_trans to_y to_u, calm''⟩

/-! ## The Commands of `init` -/

/-- The Commands that `init` sends (R151 to R153). -/
def initCommands (S : DisplayState) : List Command :=
  (match S.dataWidth with
    | .bit4 => [halfCommand, instruction (functionSetByte S), instruction (functionSetByte S)]
    | .bit8 => [instruction (functionSetByte S), instruction (functionSetByte S)])
    ++ [instruction (displayControlByte S), instruction 0x01, instruction (entryModeByte S)]

theorem commandsOf_initFront (S : DisplayState) : commandsOf ((initFront S).flatMap Prod.snd) = initCommands S := by
  unfold initFront initCommands
  cases S.dataWidth <;> rfl

/-- The width that the transport needs (R151, R222). -/
theorem width_of_fits {s : State} (fits : initWidthError s = none)
    (eightPins : s.params.transport = .parallelEightBit → s.params.pinCnt = 8) :
    (s.params.transport = .i2cBridge → s.S.dataWidth = .bit4)
      ∧ (s.params.transport = .parallelEightBit → s.S.dataWidth = .bit8) := by
  rw [initWidthError] at fits
  constructor <;> intro tr
  · cases width : s.S.dataWidth with
    | bit4 => rfl
    | bit8 => rw [tr, width] at fits; cases fits
  · cases width : s.S.dataWidth with
    | bit4 => rw [tr, width, eightPins tr] at fits; cases fits
    | bit8 => rfl

theorem takes_initCommands {p : Params} {S : DisplayState} (bridge : p.transport = .i2cBridge → S.dataWidth = .bit4)
    (eight : p.transport = .parallelEightBit → S.dataWidth = .bit8) : ∀ c ∈ initCommands S, Takes p c := by
  have function := takes_functionSet bridge
  have tail : ∀ c ∈ [instruction (displayControlByte S), instruction 0x01, instruction (entryModeByte S)], Takes p c :=
    List.forall_mem_cons.mpr ⟨takes_displayControl p S, List.forall_mem_cons.mpr ⟨takes_instruction fun _ => by decide,
      List.forall_mem_cons.mpr ⟨takes_entryMode p S, List.forall_mem_nil _⟩⟩⟩
  unfold initCommands
  cases width : S.dataWidth with
  | bit4 =>
    have half : Takes p halfCommand := takes_bootstrap fun tr => DataWidth.noConfusion (width.symm.trans (eight tr))
    exact List.forall_mem_cons.mpr ⟨half, List.forall_mem_cons.mpr ⟨function, List.forall_mem_cons.mpr ⟨function, tail⟩⟩⟩
  | bit8 => exact List.forall_mem_cons.mpr ⟨function, List.forall_mem_cons.mpr ⟨function, tail⟩⟩

/-- The controller after the last four instructions of `init`, whatever it held before (R226). -/
theorem lockstep_initTail (p : Params) (S : DisplayState) (k : AssumedController) :
    Lockstep S.homed (AssumedController.takeAll p [instruction (functionSetByte S), instruction (displayControlByte S),
      instruction 0x01, instruction (entryModeByte S)] k) := by
  have function : encodeCommand (.functionSet S.dataWidth S.lineMode S.font) = .ok (instruction (functionSetByte S)) :=
    congrArg Except.ok (functionSetCommand_eq S)
  have display : encodeCommand (.displayOnOff S.displayOn S.cursorOn S.cursorBlink) = .ok (instruction (displayControlByte S)) :=
    congrArg Except.ok (displayControlCommand_eq S)
  have clear : encodeCommand .clearDisplay = .ok (instruction 0x01) := rfl
  have entry : encodeCommand (.entryModeSet S.direction S.shiftType) = .ok (instruction (entryModeByte S)) :=
    congrArg Except.ok (entryModeCommand_eq S)
  rw [takeAll_encoded function, takeAll_encoded display, takeAll_encoded clear, takeAll_encoded entry]
  exact ⟨rfl, rfl, rfl, rfl, rfl, fun _ => congrArg some (ddramAddr_home S.lineMode).symm⟩

theorem lockstep_initCommands (p : Params) (S : DisplayState) (k : AssumedController) :
    Lockstep S.homed (AssumedController.takeAll p (initCommands S) k) := by
  have split : ∃ before, initCommands S = before ++ [instruction (functionSetByte S), instruction (displayControlByte S),
      instruction 0x01, instruction (entryModeByte S)] := by
    unfold initCommands
    cases S.dataWidth with
    | bit4 => exact ⟨[halfCommand, instruction (functionSetByte S)], rfl⟩
    | bit8 => exact ⟨[instruction (functionSetByte S)], rfl⟩
  obtain ⟨before, split⟩ := split
  rw [split, takeAll_append]
  exact lockstep_initTail p S _

/-! ## `init` -/

theorem boots_initFrontActions {S : DisplayState} (fourBit : S.dataWidth = .bit4) : Boots (initFrontActions S) := by
  rw [initFrontActions, fourBit]
  exact ⟨_, _, rfl⟩

/-- With the width that its transport needs, `init` can complete. -/
theorem canComplete_init {s : State} (asked : Asked s .init []) (fits : initWidthError s = none)
    (eightPins : s.params.transport = .parallelEightBit → s.params.pinCnt = 8) : CanComplete s := by
  obtain ⟨bridge, eight⟩ := width_of_fits fits eightPins
  obtain ⟨N, total⟩ := phases_total (phases_init s.params s.S)
    (by rw [commandsOf_initFront]; exact takes_initCommands bridge eight) [.stage .t4, .pushBacklight]
  have asked' : Asked { s with env := calmEnv N } .init [] := asked
  obtain ⟨i, z, front, reaches, calm⟩ := total 0 (({ s with env := calmEnv N } : State).begun s.S)
    (working_begun asked.1 s.S) rfl rfl (fun tr => .inr (boots_initFrontActions (bridge tr))) (calm_calmEnv N)
  obtain ⟨n, st, hq⟩ := nothing_left_of_reaches reaches
  have enters := goes_enter reaches.working .t4 [.pushBacklight]
  obtain ⟨j, v, pushes, ended⟩ := backlight_total (working_entered reaches.working .t4)
    ⟨n, some .t4, by rw [State.entered, hq]; rfl⟩ calm.never
  have starts := starts_init fits
  have whole := goes_trans front (goes_trans enters pushes)
  obtain ⟨m, ms, cons⟩ := List.exists_cons_of_ne_nil
    (List.append_ne_nil_of_right_ne_nil (initFrontActions s.S) (List.cons_ne_nil (.stage .t4) [.pushBacklight]))
  rw [cons] at starts whole
  exact ⟨calmEnv N, v.rested, runsToIdle_of_goes asked' starts whole ended⟩

theorem storedBacklight_of_bridge {s : State} (tr : s.params.transport = .i2cBridge) :
    storedBacklight s = s.S.backlight := by
  rw [storedBacklight, tr]

theorem backlightCalls_of_parallel {s : State} (tr : s.params.transport ≠ .i2cBridge) (line : s.params.hasBacklight = true) :
    backlightCalls s = [.pinSet .bl (blLv s.S.backlight)] := by
  rw [backlightCalls]
  cases htr : s.params.transport with
  | parallelFourBit => exact if_pos line
  | parallelEightBit => exact if_pos line
  | i2cBridge => exact absurd htr tr

/-- Settles O45: the front of `init` reaches home with its Commands sent, and the backlight push changes only its line. -/
theorem initEndsReadyAndInLockstep : Obligations.InitEndsReadyAndInLockstep := by
  intro s k asked _ fits _ eightPins
  refine ⟨canComplete_init asked fits eightPins, fun t runs => ?_⟩
  obtain ⟨_, z, _, _, _, reaches, rfl⟩ := init_sound asked runs
  have outcome := outcome_of_reaches reaches
  obtain ⟨_, _, advances⟩ := reaches.advances
  have params : z.params = s.params := advances.params
  have light : z.S.backlight = s.S.backlight := by rw [reaches.shadow]; rfl
  refine ⟨reaches.shadow, ?_, ?_, fun tr => ⟨?_, ?_⟩, fun tr line => ?_⟩
  · have taken := outcome.takeAll s.params k
    rw [commandsOf_initFront] at taken
    show Lockstep z.S (k.takeAll s.params (z.rested.delivered.drop s.delivered.length))
    rw [reaches.shadow, show k.takeAll s.params _ = _ from taken]
    exact lockstep_initCommands s.params s.S k
  · exact outcome.sent.trans (commandsOf_initFront s.S)
  · refine advances.firstSent tr ?_
    rw [commandsOf_initFront]
    exact List.append_ne_nil_of_right_ne_nil _ (List.cons_ne_nil _ _)
  · show storedBacklight z = _
    rw [storedBacklight_of_bridge (params ▸ tr), light]
  · rw [backlightCalls_of_parallel (params ▸ tr) (params ▸ line), light]
    cases s.S.backlight <;> rfl

end Sys2Proof.Machine
end
